-- ==== Sys2Proof/Word.lean ====
section
/-! DEFINITION. The word, byte and port-index types, and the accumulator triple (00_scope.md R7, R9). -/

namespace Sys2Proof

/-- A 32-bit unsigned word; arithmetic is modulo 2^32 (00_scope.md R7, R9). -/
abbrev Word := BitVec 32

/-- A byte of the memory space (20_memory.md R50). -/
abbrev Byte := BitVec 8

/-- A register-port word index, 0 to 63 (10_state.md R28). -/
abbrev PortIndex := BitVec 6

/-- The accumulator triple (a, b, c) of the source (00_scope.md R15, 10_state.md R21). -/
structure Triple where
  a : Word
  b : Word
  c : Word
deriving DecidableEq, Repr

end Sys2Proof
end

