-- ==== Sys2Proof/Config.lean ====
section
/-! DEFINITION. The block's parameters (00_scope.md R7) and the free values the spec leaves open (93_implementation_defined.md section 2). -/

namespace Sys2Proof

/-- BLOCK_BYTES: bytes per block (00_scope.md R7). -/
def Config.blockBytes : Nat := 12

/-- TAIL_MAX: the largest tail (00_scope.md R7). -/
def Config.tailMax : Nat := 12

/-- OUT_BYTES: the serialised output size (00_scope.md R7). -/
def Config.outBytes : Nat := 4

/-- The size in bytes of the register window: 64 words (10_state.md R28). -/
def Config.windowBytes : Nat := 256

/-- What a memory address that State does not list reads as. DESIGN CHOICE (log 5): every address reads a
byte (20_memory.md R52) and the spec leaves the contents to the platform. -/
def Config.unlistedByte : Byte := 0

/-- The byte the n-th contended read of an UPDATE returns: any value (20_memory.md R65; log 6, log 7). -/
opaque Config.freeByte : Nat → Byte

/-- Which of the contending writes a contended DIGEST byte keeps, at draw n (20_memory.md R65; log 6, log 7). -/
opaque Config.freeChoice : Nat → Nat

/-- Whether a byte of a DIGEST abandoned by reset was written, at draw n (70_reset_and_hazards.md R221;
log 7, log 9). -/
opaque Config.freeLanded : Nat → Bool

end Sys2Proof
end

