-- ==== Sys2Proof/Syntax.lean ====
section
/-! DEFINITION. The seven commands (30_encoding.md R83). -/

namespace Sys2Proof

/-- A command. Its data operands are the registers OP0 to OP2, not part of the word (30_encoding.md R81). -/
inductive Instr where
  /-- SEED (41_seed_load.md R121). -/
  | seed
  /-- RESEED (41_seed_load.md R122). -/
  | reseed
  /-- LOAD (41_seed_load.md R123). -/
  | load
  /-- BLOCK (42_absorb.md R140). -/
  | block
  /-- TAIL n (42_absorb.md R141). The field N is a 4-bit unsigned count, 0 to 15 (30_encoding.md R82); the
  thirteen TAIL rows of the opcode table are n = 0 to 12 (log 1). -/
  | tail (n : Fin 16)
  /-- UPDATE (43_update_digest.md R160). -/
  | update
  /-- DIGEST (43_update_digest.md R161). -/
  | digest
deriving DecidableEq, Repr

end Sys2Proof
end

