-- ==== Sys2Proof/WellFormed.lean ====
section
/-! DEFINITION. Which instruction terms have a legal command word (30_encoding.md R84). -/

namespace Sys2Proof

/-- A TAIL count is at most TAIL_MAX; every other command is well formed (30_encoding.md R84). -/
def Instr.wf : Instr → Bool
  | .seed => true
  | .reseed => true
  | .load => true
  | .block => true
  | .tail n => n.val ≤ Config.tailMax
  | .update => true
  | .digest => true

end Sys2Proof
end

