-- ==== Sys2Proof/Decode.lean ====
section
/-! DEFINITION. The command word: its fields, the decoder, the encoder (30_encoding.md R80 to R91). -/

namespace Sys2Proof

/-- OPC = w[3:0] (30_encoding.md R80). -/
def opcField (w : Word) : BitVec 4 := w.extractLsb' 0 4

/-- N = w[7:4] (30_encoding.md R80). -/
def nField (w : Word) : BitVec 4 := w.extractLsb' 4 4

/-- RSV = w[31:8] (30_encoding.md R80). -/
def rsvField (w : Word) : BitVec 24 := w.extractLsb' 8 24

/-- Why a word is illegal: the four cases of 30_encoding.md R85. Each raises the same IllegalCommand. -/
inductive Reject where
  /-- RSV is not zero. -/
  | reservedBits
  /-- OPC is 0x0 or 0x8 to 0xF. -/
  | reservedOpcode
  /-- N is not zero on an opcode other than TAIL. -/
  | countNotZero
  /-- TAIL with N = 13, 14 or 15. -/
  | tailTooLong
deriving DecidableEq, Repr

/-- A command other than TAIL: N must be 0 (30_encoding.md R84). -/
def withoutCount (w : Word) (i : Instr) : Except Reject Instr :=
  if nField w = 0 then .ok i else .error .countNotZero

/-- TAIL with n = w[7:4]: n must be at most 12 (30_encoding.md R84, R87). -/
def withCount (w : Word) : Except Reject Instr :=
  if (nField w).toNat ≤ Config.tailMax then .ok (.tail (nField w).toFin) else .error .tailTooLong

/-- The decoder, total on every 32-bit word (30_encoding.md R87, R83). -/
def decode (w : Word) : Except Reject Instr :=
  if rsvField w = 0 then
    match (opcField w).toNat with
    | 1 => withoutCount w .seed
    | 2 => withoutCount w .reseed
    | 3 => withoutCount w .load
    | 4 => withoutCount w .block
    | 5 => withCount w
    | 6 => withoutCount w .update
    | 7 => withoutCount w .digest
    | _ => .error .reservedOpcode
  else .error .reservedBits

/-- The command word of an instruction (30_encoding.md R83): OPC, and N * 0x10 for TAIL. -/
def encode : Instr → Word
  | .seed => 0x00000001
  | .reseed => 0x00000002
  | .load => 0x00000003
  | .block => 0x00000004
  | .tail n => 0x00000005 + BitVec.ofNat 32 n.val * 0x10
  | .update => 0x00000006
  | .digest => 0x00000007

/-- The instruction of an opcode-table row: a row is one 32-bit word, and its bits above nbits are 0. A number
that no 32-bit word holds is no command (30_encoding.md R88: the length is always one 32-bit word). -/
def decodeTableWord (nbits w : Nat) : Option Instr :=
  if w % 2 ^ nbits < 2 ^ 32 then (decode (BitVec.ofNat 32 (w % 2 ^ nbits))).toOption else none

end Sys2Proof
end

