-- ==== Sys2Proof/Machine/Datapath.lean ====
section
/-! DEFINITION. The pure functions of the datapath (40_datapath.md R100 to R110, 41_seed_load.md R120). -/

namespace Sys2Proof.Machine

/-- SEED_BASE (00_scope.md R7). -/
def seedBase : Word := 0xdeadbeef

/-- Left rotation, for 1 ≤ k ≤ 31 (40_datapath.md R100). -/
def rot (x : Word) (k : Nat) : Word := (x <<< k) ||| (x >>> (32 - k))

/-- The Mix step: six lines, each of three statements, in order (40_datapath.md R101). -/
def mix (t : Triple) : Triple :=
  let a := t.a
  let b := t.b
  let c := t.c
  let a := a - c
  let a := a ^^^ rot c 4
  let c := c + b
  let b := b - a
  let b := b ^^^ rot a 6
  let a := a + c
  let c := c - b
  let c := c ^^^ rot b 8
  let b := b + a
  let a := a - c
  let a := a ^^^ rot c 16
  let c := c + b
  let b := b - a
  let b := b ^^^ rot a 19
  let a := a + c
  let c := c - b
  let c := c ^^^ rot b 4
  let b := b + a
  ⟨a, b, c⟩

/-- The Final mix: seven lines, each of two statements, in order (40_datapath.md R102). -/
def final (t : Triple) : Triple :=
  let a := t.a
  let b := t.b
  let c := t.c
  let c := c ^^^ b
  let c := c - rot b 14
  let a := a ^^^ c
  let a := a - rot c 11
  let b := b ^^^ a
  let b := b - rot a 25
  let c := c ^^^ b
  let c := c - rot b 16
  let a := a ^^^ c
  let a := a - rot c 4
  let b := b ^^^ a
  let b := b - rot a 14
  let c := c ^^^ b
  let c := c - rot b 24
  ⟨a, b, c⟩

/-- The inverse of the Mix step, given by the spec as a test oracle (40_datapath.md R109). -/
def mixInv (t : Triple) : Triple :=
  let a := t.a
  let b := t.b
  let c := t.c
  let b := b - a
  let c := c ^^^ rot b 4
  let c := c + b
  let a := a - c
  let b := b ^^^ rot a 19
  let b := b + a
  let c := c - b
  let a := a ^^^ rot c 16
  let a := a + c
  let b := b - a
  let c := c ^^^ rot b 8
  let c := c + b
  let a := a - c
  let b := b ^^^ rot a 6
  let b := b + a
  let c := c - b
  let a := a ^^^ rot c 4
  let a := a + c
  ⟨a, b, c⟩

/-- The inverse of the Final mix, given by the spec as a test oracle (40_datapath.md R110). -/
def finalInv (t : Triple) : Triple :=
  let a := t.a
  let b := t.b
  let c := t.c
  let c := (c + rot b 24) ^^^ b
  let b := (b + rot a 14) ^^^ a
  let a := (a + rot c 4) ^^^ c
  let c := (c + rot b 16) ^^^ b
  let b := (b + rot a 25) ^^^ a
  let a := (a + rot c 11) ^^^ c
  let c := (c + rot b 14) ^^^ b
  ⟨a, b, c⟩

/-- Four bytes as a little-endian word (40_datapath.md R104, 20_memory.md R53). -/
def le32 (b0 b1 b2 b3 : Byte) : Word :=
  b0.setWidth 32 ||| b1.setWidth 32 <<< 8 ||| b2.setWidth 32 <<< 16 ||| b3.setWidth 32 <<< 24

/-- Word k of a byte sequence: le32 of its bytes 4k to 4k+3, an absent byte taken as 0 (40_datapath.md R104,
R105 "with absent bytes taken as any value"; 20_memory.md R56). -/
def wordAt (d : List Byte) (k : Nat) : Word :=
  le32 (d.getD (4 * k) 0) (d.getD (4 * k + 1) 0) (d.getD (4 * k + 2) 0) (d.getD (4 * k + 3) 0)

/-- Tail byte j added into accumulator j div 4 at bit 8 * (j mod 4) (40_datapath.md R105). There is no
accumulator for j ≥ 12, and a tail has no such byte. -/
def addTailByte (t : Triple) (j : Nat) (e : Byte) : Triple :=
  let v := e.setWidth 32 <<< (8 * (j % 4))
  match j / 4 with
  | 0 => { t with a := t.a + v }
  | 1 => { t with b := t.b + v }
  | 2 => { t with c := t.c + v }
  | _ => t

/-- TAILADD from tail byte j on (40_datapath.md R105). -/
def tailAddFrom (j : Nat) (t : Triple) : List Byte → Triple
  | [] => t
  | e :: es => tailAddFrom (j + 1) (addTailByte t j e) es

/-- TAILADD: the tail bytes added into the triple by position (40_datapath.md R105). -/
def tailAdd (t : Triple) (e : List Byte) : Triple := tailAddFrom 0 t e

/-- msk(k) selects the low k bytes of a word, k = 0 to 4 (40_datapath.md R105). -/
def byteMask (k : Nat) : Word :=
  if k = 0 then 0 else if k < 4 then (1 <<< (8 * k)) - 1 else 0xFFFFFFFF

/-- cl(n - start) = min(4, max(0, n - start)); subtraction of naturals stops at 0 (40_datapath.md R105). -/
def clampCount (n start : Nat) : Nat := min 4 (n - start)

/-- TAILADD_W, the operand form of tail absorption (40_datapath.md R105). -/
def tailAddW (t : Triple) (n : Nat) (w0 w1 w2 : Word) : Triple :=
  ⟨t.a + (w0 &&& byteMask (clampCount n 0)), t.b + (w1 &&& byteMask (clampCount n 4)),
    t.c + (w2 &&& byteMask (clampCount n 8))⟩

/-- BLOCKFN: three words added, then the Mix step (40_datapath.md R106). -/
def blockFn (t : Triple) (w0 w1 w2 : Word) : Triple := mix ⟨t.a + w0, t.b + w1, t.c + w2⟩

/-- BLOCKFN over the first twelve bytes of a sequence (40_datapath.md R107). -/
def absorbBlock (t : Triple) (d : List Byte) : Triple := blockFn t (wordAt d 0) (wordAt d 1) (wordAt d 2)

/-- The full-block phase: while more than 12 bytes remain, absorb a block (40_datapath.md R107). It answers the
triple and the tail. The loop condition is 90_conflicts.md C1's choice (log 10). The first argument bounds the
number of rounds. -/
def blockLoop : Nat → List Byte → Triple → Triple × List Byte
  | 0, d, t => (t, d)
  | k + 1, d, t =>
    if d.length > Config.blockBytes then blockLoop k (d.drop Config.blockBytes) (absorbBlock t d) else (t, d)

/-- What follows the full-block phase: nothing for an empty tail, else TAILADD and FINAL (40_datapath.md R107). -/
def finishTail (t : Triple) (e : List Byte) : Triple :=
  match e with
  | [] => t
  | _ :: _ => final (tailAdd t e)

/-- UPDATEFN (40_datapath.md R107). A block takes bytes away, so the length of d bounds the rounds. -/
def updateFn (d : List Byte) (t : Triple) : Triple :=
  let r := blockLoop d.length d t
  finishTail r.1 r.2

/-- The seeding rule (41_seed_load.md R120). -/
def seedRule (s0 s1 : Word) : Triple :=
  let a := seedBase + s0
  let b := a
  let c := a + s1
  ⟨a, b, c⟩

/-- The 64-bit identifier a host forms from the dual output: c | (b << 32) (44_entry_points.md R185). -/
def id64 (c b : Word) : BitVec 64 := c.setWidth 64 ||| b.setWidth 64 <<< 32

end Sys2Proof.Machine
end

