-- ==== Sys2Proof/Machine/State.lean ====
section
/-! DEFINITION. The machine's state as plain data, its inputs, its reasons to stop, and its state after reset (10_state.md R20, R34). -/

namespace Sys2Proof.Machine

/-- The memory space, as the bytes that differ from Config.unlistedByte, at strictly rising addresses
(20_memory.md R50; log 5). -/
abbrev Memory := List Host.Cell

/-- The canonical form from address lo on: rising addresses below 2^32, no listed byte equal to what an
unlisted address reads as. -/
def Memory.wfFrom (lo : Nat) : Memory → Bool
  | [] => true
  | (a, b) :: m => decide (lo ≤ a) && decide (a < 2 ^ 32) && decide (b ≠ Config.unlistedByte) && Memory.wfFrom (a + 1) m

/-- The canonical form: equal memories are equal lists. -/
def Memory.wf (m : Memory) : Bool := Memory.wfFrom 0 m

/-- One input of the machine. The block takes them one at a time (00_scope.md R14, 60_exceptions.md R212; log 2). -/
inductive Event where
  /-- A port read of word index i (10_state.md R29). -/
  | read (i : PortIndex)
  /-- A port write of v to word index i (10_state.md R30). Index 8 is CMD: the write performs a command. -/
  | write (i : PortIndex) (v : Word)
  /-- Reset, with no command running (70_reset_and_hazards.md R220). -/
  | reset
  /-- Reset that arrives while the CMD write of w runs (70_reset_and_hazards.md R221; log 9). -/
  | resetDuring (w : Word)
  /-- A byte that the host or another agent stores by its own path, complete before the next access
  (20_memory.md R50, R64). -/
  | store (a : Word) (b : Byte)
  /-- A byte store of another agent that overlaps the next CMD write (20_memory.md R65; log 6). -/
  | race (a : Word) (b : Byte)
deriving DecidableEq, Repr

/-- Why a step stops. -/
inductive Fault where
  /-- Raised by UPDATE and by DIGEST when a memory address they use lies in the block's own register window,
  which the platform has then wrongly mapped: the command never completes and nothing has a further step
  (20_memory.md R62, 70_reset_and_hazards.md R229; log 8). Safe: the hardware is stuck too. -/
  | selfAccess
deriving DecidableEq, Repr

/-- Why the model has no meaning for a step. -/
inductive Refusal where
  /-- Raised by no instruction: every arm of exec has its meaning. Safe. -/
  | notModelled (mnemonic : String)
deriving DecidableEq, Repr

/-- The state. A to STATUS are the block's (10_state.md R20); mem, memWindow and rivals are the platform's;
pending, returned and draws are the model's own. -/
structure State where
  /-- Accumulator word a (10_state.md R21). -/
  A : Word
  /-- Accumulator word b (10_state.md R21). -/
  B : Word
  /-- Accumulator word c (10_state.md R21). -/
  C : Word
  /-- Seed 0 (10_state.md R23). -/
  S0 : Word
  /-- Seed 1 (10_state.md R23). -/
  S1 : Word
  /-- Operand 0 (10_state.md R24). -/
  OP0 : Word
  /-- Operand 1 (10_state.md R24). -/
  OP1 : Word
  /-- Operand 2 (10_state.md R24). -/
  OP2 : Word
  /-- The two bits of STATUS that hold state: bit 0 ILL, bit 1 BADACC (10_state.md R26). -/
  STATUS : BitVec 2
  /-- The memory space behind the memory port (20_memory.md R50, R52). -/
  mem : Memory
  /-- The address at which the platform makes the register window reachable in the memory space, if it does
  (20_memory.md R62; log 8). -/
  memWindow : Option Word
  /-- Byte stores of other agents that overlap the next command, oldest first (20_memory.md R65; log 6). -/
  rivals : List (Word × Byte)
  /-- The events still to come, oldest first (log 2). -/
  pending : List Event
  /-- The values port reads have returned, oldest first (log 4). -/
  returned : List Word
  /-- The number of the next free value (log 7). -/
  draws : Nat
deriving DecidableEq, Repr

/-- The machine right after reset (10_state.md R34). The block's registers have the values the spec gives; the
other fields are as log 12 and log 8 say. -/
def State.reset : State where
  A := 0xdeadbeef
  B := 0xdeadbeef
  C := 0xdeadbeef
  S0 := 0
  S1 := 0
  OP0 := 0
  OP1 := 0
  OP2 := 0
  STATUS := 0
  mem := []
  memWindow := none
  rivals := []
  pending := []
  returned := []
  draws := 0

end Sys2Proof.Machine
end

