-- ==== Sys2Proof/Machine/Flags.lean ====
section
/-! DEFINITION. STATUS: its two fields and every way they change (10_state.md R26, R35; 60_exceptions.md R200 to R206). -/

namespace Sys2Proof.Machine

/-- The error conditions, complete (60_exceptions.md R203). -/
inductive Cause where
  | illegalCommand
  | badAccess
deriving DecidableEq, Repr

/-- The cause code (60_exceptions.md R203). -/
def Cause.code : Cause → Nat
  | .illegalCommand => 1
  | .badAccess => 2

/-- The STATUS bit that records the cause (60_exceptions.md R203). -/
def Cause.statusBit : Cause → BitVec 2
  | .illegalCommand => 0b01
  | .badAccess => 0b10

/-- STATUS.ILL (10_state.md R26). -/
def State.ILL (s : State) : Bool := s.STATUS.getLsbD 0

/-- STATUS.BADACC (10_state.md R26). -/
def State.BADACC (s : State) : Bool := s.STATUS.getLsbD 1

/-- Recording a cause: its bit is set and stays set, the other bit keeps its value (60_exceptions.md R206). -/
def statusSet (c : Cause) (st : BitVec 2) : BitVec 2 := st ||| c.statusBit

/-- A write of v to STATUS: STATUS[1:0] & ~v[1:0]; bits 31:2 of v are ignored (10_state.md R26). -/
def statusClear (v : Word) (st : BitVec 2) : BitVec 2 := st &&& ~~~(v.extractLsb' 0 2)

/-- What a read of STATUS returns: zext_32(STATUS[1:0]) (10_state.md R29). -/
def statusWord (st : BitVec 2) : Word := st.setWidth 32

end Sys2Proof.Machine
end

