-- ==== Sys2Proof/Machine/Ops.lean ====
section
/-! DEFINITION. The shared operations over memory and registers: memory bytes, contended bytes, error conditions, port reads and writes, reset. -/

namespace Sys2Proof.Machine

/-! ### Memory -/

/-- The byte at an address (00_scope.md R11, 20_memory.md R52: every address reads a byte). -/
def Memory.read (m : Memory) (a : Nat) : Byte :=
  match m with
  | [] => Config.unlistedByte
  | (x, y) :: m => if x = a then y else Memory.read m a

/-- A cell in front of a memory, left out when it says what an unlisted address reads as. -/
def Memory.cons (a : Nat) (b : Byte) (m : Memory) : Memory := if b = Config.unlistedByte then m else (a, b) :: m

/-- Writing one byte, in canonical form (00_scope.md R11). -/
def Memory.write (m : Memory) (a : Nat) (b : Byte) : Memory :=
  match m with
  | [] => Memory.cons a b []
  | (x, y) :: m =>
    if a < x then Memory.cons a b ((x, y) :: m)
    else if a = x then Memory.cons a b m
    else (x, y) :: Memory.write m a b

/-- The byte at a 32-bit address of the state's memory. -/
def State.byteAt (s : State) (a : Word) : Byte := s.mem.read a.toNat

/-- The state with one byte written at a 32-bit address, no other agent writing it. -/
def State.setByte (s : State) (a : Word) (b : Byte) : State := { s with mem := s.mem.write a.toNat b }

/-! ### Bytes that another agent writes at the same time (20_memory.md R65; log 6, log 7) -/

/-- The values other agents are writing at an address while the command runs. -/
def State.rivalBytes (s : State) (a : Word) : List Byte := (s.rivals.filter (fun r => r.1 == a)).map Prod.snd

/-- What draw n leaves in a byte that b and the others' bytes contend for: one of them. -/
def pickByte (n : Nat) (b : Byte) (others : List Byte) : Byte :=
  match others with
  | [] => b
  | o :: os => (b :: o :: os).getD (Config.freeChoice n % (os.length + 2)) b

/-- MemRead as draw n sees it: the byte of memory, or any value where another agent is writing. -/
def State.loadByte (s : State) (n : Nat) (a : Word) : Byte :=
  match s.rivalBytes a with
  | [] => s.byteAt a
  | _ :: _ => Config.freeByte n

/-- MemWrite of b at a: the byte ends as b or as what another agent is writing there, whose store is then over. -/
def State.storeByte (s : State) (a : Word) (b : Byte) : State :=
  { s with
    mem := s.mem.write a.toNat (pickByte s.draws b (s.rivalBytes a))
    rivals := s.rivals.filter (fun r => !(r.1 == a))
    draws := s.draws + 1 }

/-- MemWrite of several bytes. -/
def State.storeBytes (s : State) : List (Word × Byte) → State
  | [] => s
  | (a, b) :: cells => State.storeBytes (s.storeByte a b) cells

/-- n free values have been used (log 7). -/
def State.advance (s : State) (n : Nat) : State := { s with draws := s.draws + n }

/-- Whether an address lies in the block's register window as the platform has mapped it: 256 bytes from its
base, modulo 2^32 (20_memory.md R62, 10_state.md R28; log 8). -/
def State.inWindow (s : State) (a : Word) : Bool :=
  match s.memWindow with
  | none => false
  | some base => (a - base).toNat < Config.windowBytes

/-- Whether one of the addresses lies in the register window (70_reset_and_hazards.md R229). -/
def State.reachesWindow (s : State) (addrs : List Word) : Bool := addrs.any s.inWindow

/-- The bytes of an abandoned DIGEST: each is written or not, freely (70_reset_and_hazards.md R221; log 9). A byte
in the register window is never written. -/
def State.storeSome (s : State) : List (Word × Byte) → State
  | [] => s
  | (a, b) :: cells =>
    State.storeSome
      (if Config.freeLanded s.draws && !s.inWindow a then (s.advance 1).storeByte a b else s.advance 1) cells

/-- The stores of other agents that overlapped a command are complete after it, in their order (log 6). -/
def State.settle (s : State) : State :=
  { s with mem := s.rivals.foldl (fun m r => m.write r.1.toNat r.2) s.mem, rivals := [] }

/-! ### Registers -/

/-- The accumulator triple (10_state.md R21). -/
def State.acc (s : State) : Triple := ⟨s.A, s.B, s.C⟩

/-- (A, B, C) <- t (00_scope.md R10). -/
def State.setAcc (s : State) (t : Triple) : State := { s with A := t.a, B := t.b, C := t.c }

/-- S0 <- s0; S1 <- s1 (41_seed_load.md R121). -/
def State.setSeeds (s : State) (s0 s1 : Word) : State := { s with S0 := s0, S1 := s1 }

/-! ### Error conditions -/

/-- raise: the cause's STATUS bit is set and nothing else changes (00_scope.md R12, 60_exceptions.md R200, R201).
No state is saved, no handler is entered, and there is no return from it (R205, R206): the host clears the bit
by a write to STATUS. -/
def State.raise (s : State) (c : Cause) : State := { s with STATUS := statusSet c s.STATUS }

/-! ### The register port, but for CMD writes -/

/-- INFO: OUT_SIZE 4 in bits 7:0, BLOCK_SIZE 12 in bits 15:8 (10_state.md R27). -/
def infoWord : Word := 0x00000C04

/-- rd(i): the value of a port read; it changes no state (10_state.md R29). -/
def State.rd (s : State) (i : PortIndex) : Word :=
  match i.toNat with
  | 0 => s.A
  | 1 => s.B
  | 2 => s.C
  | 3 => s.S0
  | 4 => s.S1
  | 5 => s.OP0
  | 6 => s.OP1
  | 7 => s.OP2
  | 8 => 0
  | 9 => statusWord s.STATUS
  | 10 => infoWord
  | _ => 0

/-- The state after a port read: the host has the value, nothing else changes (10_state.md R22, R29; log 4). -/
def State.portRead (s : State) (i : PortIndex) : State := { s with returned := s.returned ++ [s.rd i] }

/-- The word index of CMD (10_state.md R28). -/
def cmdIndex : PortIndex := 8

/-- wr(i, v) for every index but CMD: operands, STATUS, and BadAccess for read-only and unmapped indices
(10_state.md R30). -/
def State.writeReg (s : State) (i : PortIndex) (v : Word) : State :=
  match i.toNat with
  | 5 => { s with OP0 := v }
  | 6 => { s with OP1 := v }
  | 7 => { s with OP2 := v }
  | 9 => { s with STATUS := statusClear v s.STATUS }
  | _ => s.raise .badAccess

/-! ### Reset -/

/-- The reset event: every register takes its reset value; memory and what is outside the block keep theirs
(70_reset_and_hazards.md R220, 10_state.md R34). -/
def State.applyReset (s : State) : State :=
  { s with
    S0 := 0, S1 := 0
    A := (seedRule 0 0).a, B := (seedRule 0 0).b, C := (seedRule 0 0).c
    OP0 := 0, OP1 := 0, OP2 := 0
    STATUS := 0 }

end Sys2Proof.Machine
end

