-- ==== Sys2Proof/Machine/Operands.lean ====
section
/-! DEFINITION. The operand forms of the commands: the words of OP0 to OP2, the input bytes of UPDATE, the output bytes of DIGEST (30_encoding.md R81, R82). -/

namespace Sys2Proof.Machine

/-- The n byte addresses from p on, modulo 2^32 (20_memory.md R51, R58, R59). -/
def byteAddrs (p : Word) (n : Nat) : List Word := (List.range n).map (fun i => p + BitVec.ofNat 32 i)

/-- OP0 to OP2 as TAIL's tail bytes, added into the triple (30_encoding.md R81, 42_absorb.md R141). -/
def State.tailOperand (s : State) (n : Nat) : Triple := tailAddW s.acc n s.OP0 s.OP1 s.OP2

/-- OP0 to OP2 as BLOCK's block words (30_encoding.md R81, 42_absorb.md R140). -/
def State.blockOperand (s : State) : Triple := blockFn s.acc s.OP0 s.OP1 s.OP2

/-- UPDATE's input addresses: OP1 bytes from OP0 on (43_update_digest.md R160). -/
def State.updateAddrs (s : State) : List Word := byteAddrs s.OP0 s.OP1.toNat

/-- UPDATE's input: each byte read once, in ascending order (43_update_digest.md R160, 20_memory.md R58; log 11). -/
def State.updateInput (s : State) : List Byte :=
  (List.range s.OP1.toNat).map (fun i => s.loadByte (s.draws + i) (s.OP0 + BitVec.ofNat 32 i))

/-- byte k of the serialised word: byte(C, 3 - k), the most significant first (20_memory.md R54). -/
def beByte (v : Word) (k : Nat) : Byte := v.extractLsb' (8 * (3 - k)) 8

/-- DIGEST's four bytes and their addresses from OP0 on (43_update_digest.md R161; log 11). -/
def State.digestCells (s : State) : List (Word × Byte) :=
  (List.range Config.outBytes).map (fun k => (s.OP0 + BitVec.ofNat 32 k, beByte s.C k))

end Sys2Proof.Machine
end

