-- ==== Sys2Proof/Machine/Absorb.lean ====
section
/-! DEFINITION. BLOCK and TAIL (42_absorb.md). -/

namespace Sys2Proof.Machine

/-- BLOCK (42_absorb.md R140). -/
def execBlock (s : State) : Host.Outcome State Fault Refusal := .next (s.setAcc s.blockOperand)

/-- TAIL n (42_absorb.md R141). A count above 12 has no legal word and raises IllegalCommand. -/
def execTail (n : Fin 16) (s : State) : Host.Outcome State Fault Refusal :=
  if n.val = 0 then .next s
  else if n.val ≤ Config.tailMax then .next (s.setAcc (final (s.tailOperand n.val)))
  else .next (s.raise .illegalCommand)

end Sys2Proof.Machine
end

