-- ==== Sys2Proof/Machine/SeedLoad.lean ====
section
/-! DEFINITION. SEED, RESEED and LOAD (41_seed_load.md). -/

namespace Sys2Proof.Machine

/-- SEED (41_seed_load.md R121). -/
def execSeed (s : State) : Host.Outcome State Fault Refusal :=
  .next ((s.setSeeds s.OP0 s.OP1).setAcc (seedRule s.OP0 s.OP1))

/-- RESEED (41_seed_load.md R122). -/
def execReseed (s : State) : Host.Outcome State Fault Refusal := .next (s.setAcc (seedRule s.S0 s.S1))

/-- LOAD (41_seed_load.md R123). -/
def execLoad (s : State) : Host.Outcome State Fault Refusal := .next (s.setAcc ⟨s.OP0, s.OP1, s.OP2⟩)

end Sys2Proof.Machine
end

