-- ==== Sys2Proof/Machine/UpdateDigest.lean ====
section
/-! DEFINITION. UPDATE and DIGEST (43_update_digest.md). -/

namespace Sys2Proof.Machine

/-- UPDATE (43_update_digest.md R160). Each byte read takes one draw (log 7). An address in the block's own
window makes it stuck (70_reset_and_hazards.md R229; log 8). -/
def execUpdate (s : State) : Host.Outcome State Fault Refusal :=
  if s.reachesWindow s.updateAddrs then .fault .selfAccess
  else .next ((s.setAcc (updateFn s.updateInput s.acc)).advance s.OP1.toNat)

/-- DIGEST (43_update_digest.md R161). An address in the block's own window makes it stuck
(70_reset_and_hazards.md R229; log 8). -/
def execDigest (s : State) : Host.Outcome State Fault Refusal :=
  if s.reachesWindow (s.digestCells.map Prod.fst) then .fault .selfAccess
  else .next (s.storeBytes s.digestCells)

end Sys2Proof.Machine
end

