-- ==== Sys2Proof/Machine/Dispatch.lean ====
section
/-! DEFINITION. One arm per command (30_encoding.md R87). -/

namespace Sys2Proof.Machine

def exec (i : Instr) (s : State) : Host.Outcome State Fault Refusal :=
  match i with
  | .seed => Sys2Proof.Machine.execSeed s
  | .reseed => Sys2Proof.Machine.execReseed s
  | .load => Sys2Proof.Machine.execLoad s
  | .block => Sys2Proof.Machine.execBlock s
  | .tail n => Sys2Proof.Machine.execTail n s
  | .update => Sys2Proof.Machine.execUpdate s
  | .digest => Sys2Proof.Machine.execDigest s

end Sys2Proof.Machine
end

