-- ==== Sys2Proof/Machine/Port.lean ====
section
/-! DEFINITION. What one event does to the machine: a CMD write, a port access, a reset, a store of another agent. -/

namespace Sys2Proof.Machine

/-- execute(w): the command of a legal word, IllegalCommand for any other (30_encoding.md R87, R85). -/
def execute (w : Word) (s : State) : Host.Outcome State Fault Refusal :=
  match decode w with
  | .ok i => exec i s
  | .error _ => .next (s.raise .illegalCommand)

/-- An outcome after the overlapping stores of other agents are complete (log 6). -/
def settled (o : Host.Outcome State Fault Refusal) : Host.Outcome State Fault Refusal :=
  match o with
  | .next s => .next s.settle
  | .fault r => .fault r
  | .refused r => .refused r

/-- wr(i, v), one atomic step of the block (10_state.md R30, 70_reset_and_hazards.md R224). -/
def portWrite (i : PortIndex) (v : Word) (s : State) : Host.Outcome State Fault Refusal :=
  if i = cmdIndex then settled (execute v s) else .next (s.writeReg i v)

/-- What a command abandoned by reset leaves in memory: any of a DIGEST's four bytes written, nothing for any
other word (70_reset_and_hazards.md R221; log 9). -/
def State.abandon (s : State) (w : Word) : State :=
  if decode w = .ok .digest then s.storeSome s.digestCells else s

/-- What one event does. -/
def perform (e : Event) (s : State) : Host.Outcome State Fault Refusal :=
  match e with
  | .read i => .next (s.portRead i)
  | .write i v => portWrite i v s
  | .reset => .next s.applyReset
  | .resetDuring w => .next (s.abandon w).settle.applyReset
  | .store a b => .next (s.setByte a b)
  | .race a b => .next { s with rivals := s.rivals ++ [(a, b)] }

end Sys2Proof.Machine
end

