-- ==== Sys2Proof/Machine/Step.lean ====
section
/-! DEFINITION. One step: the oldest pending event is taken and performed; with none, the state is held (60_exceptions.md R214; log 2). -/

namespace Sys2Proof.Machine

/-- The state with the oldest event taken from the pending ones. -/
def State.take (s : State) (rest : List Event) : State := { s with pending := rest }

/-- One step of the machine (00_scope.md R14). -/
def step (s : State) : Host.Outcome State Fault Refusal :=
  match s.pending with
  | [] => .next s
  | e :: rest => perform e (s.take rest)

/-- The machine with a CMD write of the row's word as its next event: a command is the value written to CMD
(20_memory.md R68; log 3). -/
def State.withFetchWord (s : State) (nbits w : Nat) : State :=
  { s with pending := .write cmdIndex (BitVec.ofNat 32 (w % 2 ^ nbits)) :: s.pending }

end Sys2Proof.Machine
end

