-- ==== Sys2Proof/Machine/Sequences.lean ====
section
/-! DEFINITION. Pseudo-commands and host-level entry points as lists of port accesses (30_encoding.md R89, R90; 44_entry_points.md; 42_absorb.md R143). -/

namespace Sys2Proof.Machine

/-- WR OP0, v (30_encoding.md R89). -/
def wrOP0 (v : Word) : Event := .write 5 v
/-- WR OP1, v (30_encoding.md R89). -/
def wrOP1 (v : Word) : Event := .write 6 v
/-- WR OP2, v (30_encoding.md R89). -/
def wrOP2 (v : Word) : Event := .write 7 v
/-- A bare command mnemonic: WR CMD and its legal word (30_encoding.md R89). -/
def wrCMD (i : Instr) : Event := .write cmdIndex (encode i)
/-- RD B (30_encoding.md R89). -/
def rdB : Event := .read 1
/-- RD C (30_encoding.md R89). -/
def rdC : Event := .read 2

/-- The pseudo-commands (30_encoding.md R90). -/
inductive Pseudo where
  | seed (s0 s1 : Word)
  | load (a b c : Word)
  | block (w0 w1 w2 : Word)
  | tail (n : Fin 16) (w0 w1 w2 : Word)
  | update (p l : Word)
  | digest (q : Word)
  | mix
  | final
  | chkinit
  | clrstat
deriving DecidableEq, Repr

/-- LOAD a, b, c (30_encoding.md R90). -/
def loadAccesses (a b c : Word) : List Event := [wrOP0 a, wrOP1 b, wrOP2 c, wrCMD .load]

/-- BLOCK w0, w1, w2 (30_encoding.md R90). -/
def blockAccesses (w0 w1 w2 : Word) : List Event := [wrOP0 w0, wrOP1 w1, wrOP2 w2, wrCMD .block]

/-- TAIL n, w0, w1, w2 (30_encoding.md R90). -/
def tailAccesses (n : Fin 16) (w0 w1 w2 : Word) : List Event := [wrOP0 w0, wrOP1 w1, wrOP2 w2, wrCMD (.tail n)]

/-- The exact expansion of a pseudo-command (30_encoding.md R90). -/
def Pseudo.expand : Pseudo → List Event
  | .seed s0 s1 => [wrOP0 s0, wrOP1 s1, wrCMD .seed]
  | .load a b c => loadAccesses a b c
  | .block w0 w1 w2 => blockAccesses w0 w1 w2
  | .tail n w0 w1 w2 => tailAccesses n w0 w1 w2
  | .update p l => [wrOP0 p, wrOP1 l, wrCMD .update]
  | .digest q => [wrOP0 q, wrCMD .digest]
  | .mix => blockAccesses 0 0 0
  | .final => tailAccesses 1 0 0 0
  | .chkinit => loadAccesses seedBase seedBase seedBase
  | .clrstat => [.write 9 3]

/-- checksum (44_entry_points.md R180). -/
def checksumAccesses (p l : Word) : List Event :=
  (Pseudo.chkinit.expand ++ (Pseudo.update p l).expand) ++ [rdC]

/-- checksum_with_seeds (44_entry_points.md R181). -/
def checksumWithSeedsAccesses (p l s0 s1 : Word) : List Event :=
  ((Pseudo.seed s0 s1).expand ++ (Pseudo.update p l).expand) ++ [rdC]

/-- dual_checksum (44_entry_points.md R182). -/
def dualChecksumAccesses (p l s0 s1 : Word) : List Event :=
  ((Pseudo.seed s0 s1).expand ++ (Pseudo.update p l).expand) ++ [rdC, rdB]

/-- The BLOCK commands of a host-sequenced update: one for each of the first nb blocks (42_absorb.md R143). -/
def blocksOf : Nat → List Byte → List Event
  | 0, _ => []
  | nb + 1, d => blockAccesses (wordAt d 0) (wordAt d 1) (wordAt d 2) ++ blocksOf nb (d.drop Config.blockBytes)

/-- The host-sequenced update of a byte sequence: nb = (L - 1) div 12 BLOCKs, then TAIL of the L - 12 * nb bytes
that are left, packed little-endian; no command for L = 0 (42_absorb.md R143, 20_memory.md R56). -/
def hostUpdateAccesses (d : List Byte) : List Event :=
  if d.length = 0 then []
  else
    let nb := (d.length - 1) / Config.blockBytes
    let e := d.drop (Config.blockBytes * nb)
    blocksOf nb d ++ tailAccesses (Fin.ofNat 16 e.length) (wordAt e 0) (wordAt e 1) (wordAt e 2)

end Sys2Proof.Machine
end

