-- ==== Sys2Proof/Safety.lean ====
section
/-! DEFINITION. What claims are stated with: the platform's and the software's obligations, runs, the legal words, input bytes. -/

namespace Sys2Proof.Machine

/-- The platform meets 20_memory.md R62: the register window is not reachable through the memory port. -/
def State.windowHidden (s : State) : Prop := s.memWindow = none

/-- No other agent is writing the address (70_reset_and_hazards.md R225). -/
def State.quiet (s : State) (a : Word) : Prop := ∀ r ∈ s.rivals, r.1 ≠ a

/-- k steps, stopping at the first fault or refusal (Host/Core.lean's run, over step itself). -/
def run : Nat → State → Host.Outcome State Fault Refusal
  | 0, s => .next s
  | k + 1, s =>
    match step s with
    | .next t => run k t
    | .fault r => .fault r
    | .refused r => .refused r

/-- The state with a list of accesses as the next events. -/
def State.issue (s : State) (es : List Event) : State := { s with pending := es ++ s.pending }

/-- The L bytes of memory from p on, addresses modulo 2^32 (43_update_digest.md R160). -/
def State.bytesFrom (s : State) (p : Word) (l : Nat) : List Byte := (byteAddrs p l).map s.byteAt

/-- The accumulator triple k blocks into a sequence: k applications of BLOCKFN (40_datapath.md R107, R108). -/
def absorbBlocks : Nat → List Byte → Triple → Triple
  | 0, _, t => t
  | k + 1, d, t => absorbBlocks k (d.drop Config.blockBytes) (absorbBlock t d)

/-- The 19 legal command words (30_encoding.md R91). -/
def legalWords : List Word :=
  [0x01, 0x02, 0x03, 0x04] ++
  [0x05, 0x15, 0x25, 0x35, 0x45, 0x55, 0x65, 0x75, 0x85, 0x95, 0xA5, 0xB5, 0xC5] ++ [0x06, 0x07]

/-- legal(w), word for word (30_encoding.md R84). -/
def legal (w : Word) : Prop :=
  w.toNat / 256 = 0 ∧ 1 ≤ w.toNat % 16 ∧ w.toNat % 16 ≤ 7 ∧
    (if w.toNat % 16 = 5 then w.toNat / 16 % 16 ≤ 12 else w.toNat / 16 % 16 = 0)

end Sys2Proof.Machine
end

