-- ==== Sys2Proof/Certificates/Slice0/Obligations.lean ====
section
/-! DEFINITION. The statements for the provers, in the order of OBLIGATIONS.json. -/

open Sys2Proof Sys2Proof.Machine

/-! ### Encoding -/

/-- Decoding and encoding are inverse: a word decodes to i exactly when i is well formed and is encoded as that
word (30_encoding.md R83, R87). -/
def Obligations.DecodeInvertsEncode : Prop :=
  ∀ (w : Word) (i : Instr), decode w = .ok i ↔ i.wf = true ∧ encode i = w

/-- The decoder accepts exactly the legal words of 30_encoding.md R84, and they are the 19 words of R91. -/
def Obligations.LegalWordsAreTheNineteen : Prop :=
  (∀ w : Word, (∃ i, decode w = .ok i) ↔
    w.extractLsb' 8 24 = 0 ∧ 1 ≤ w.toNat % 16 ∧ w.toNat % 16 ≤ 7 ∧
      (if w.toNat % 16 = 5 then w.toNat / 16 % 16 ≤ 12 else w.toNat / 16 % 16 = 0)) ∧
  (∀ w : Word, (∃ i, decode w = .ok i) ↔ w ∈ legalWords) ∧ legalWords.length = 19 ∧ legalWords.Nodup

/-- Words written out from 30_encoding.md R83 decode to the commands they stand for. -/
def Obligations.SampleWordsDecode : Prop :=
  decode 0b00000000000000000000000000000001#32 = .ok .seed ∧
  decode 0b00000000000000000000000000000010#32 = .ok .reseed ∧
  decode 0b00000000000000000000000000000011#32 = .ok .load ∧
  decode 0b00000000000000000000000000000100#32 = .ok .block ∧
  decode 0b00000000000000000000000000000101#32 = .ok (.tail 0) ∧
  decode 0b00000000000000000000000001110101#32 = .ok (.tail 7) ∧
  decode 0b00000000000000000000000011000101#32 = .ok (.tail 12) ∧
  decode 0b00000000000000000000000000000110#32 = .ok .update ∧
  decode 0b00000000000000000000000000000111#32 = .ok .digest

/-- A word with non-zero RSV, with OPC 0 or 8 to 15, with N not zero on an opcode other than TAIL, or a TAIL with
N of 13 or more sets STATUS.ILL and changes nothing else (30_encoding.md R85, 60_exceptions.md R200). -/
def Obligations.IllegalWordRaisesIllegalCommand : Prop :=
  ∀ (w : Word) (s : State),
    (w.extractLsb' 8 24 ≠ 0 ∨ w.toNat % 16 = 0 ∨ 8 ≤ w.toNat % 16 ∨
      (w.toNat % 16 ≠ 5 ∧ w.toNat / 16 % 16 ≠ 0) ∨ (w.toNat % 16 = 5 ∧ 13 ≤ w.toNat / 16 % 16)) →
    execute w s = .next { s with STATUS := s.STATUS ||| 1#2 }

/-! ### Steps and the register port -/

/-- When the next event is a CMD write of a word that decodes to i, the step is exec of i with the event taken, and
then the stores of other agents that overlapped the command are complete (30_encoding.md R87, 10_state.md R30; the
completion of overlapping stores is the model's choice, log 6). -/
def Obligations.StepRunsDecodedCommand : Prop :=
  ∀ (s : State) (w : Word) (i : Instr) (rest : List Event),
    s.pending = .write 8 w :: rest → decode w = .ok i →
    (∀ t, exec i { s with pending := rest } = .next t → step s = .next t.settle) ∧
    (∀ r, exec i { s with pending := rest } = .fault r → step s = .fault r) ∧
    (s.rivals = [] → step s = exec i { s with pending := rest })

/-- A row of the opcode table placed as the next CMD write runs as the very next step, where no other agent is
writing (20_memory.md R68; that a command is placed as the oldest pending event is the model's choice, log 3). -/
def Obligations.PlacedCommandRunsNext : Prop :=
  ∀ (s : State) (nbits w : Nat) (i : Instr), decodeTableWord nbits w = some i → s.rivals = [] →
    step (s.withFetchWord nbits w) = exec i s

/-- With no event pending the state is held (60_exceptions.md R214; that the machine then has an idle step is the
model's choice, log 2). -/
def Obligations.IdleStepHoldsState : Prop :=
  ∀ s : State, s.pending = [] → step s = .next s

/-- A port read returns the value 10_state.md R29 gives for its index and changes no state of the block. The value
returned is kept in the model's own list (log 4). -/
def Obligations.PortReadReturnsRegister : Prop :=
  ∀ (s : State) (i : PortIndex) (rest : List Event), s.pending = .read i :: rest →
    ∃ v : Word, step s = .next { s with pending := rest, returned := s.returned ++ [v] } ∧
      (i = 0 → v = s.A) ∧ (i = 1 → v = s.B) ∧ (i = 2 → v = s.C) ∧ (i = 3 → v = s.S0) ∧ (i = 4 → v = s.S1) ∧
      (i = 5 → v = s.OP0) ∧ (i = 6 → v = s.OP1) ∧ (i = 7 → v = s.OP2) ∧ (i = 8 → v = 0) ∧
      (i = 9 → v = s.STATUS.setWidth 32) ∧ (i = 10 → v = 0x00000C04) ∧ (11 ≤ i.toNat → v = 0)

/-- A port write does what 10_state.md R30 gives for its index, and nothing else. A write to index 8 executes the word,
and then the stores of other agents that overlapped it are complete: that completion is the model's choice (log 6). -/
def Obligations.PortWriteFollowsItsIndex : Prop :=
  ∀ (s : State) (i : PortIndex) (v : Word) (rest : List Event), s.pending = .write i v :: rest →
    (i = 5 → step s = .next { s with pending := rest, OP0 := v }) ∧
    (i = 6 → step s = .next { s with pending := rest, OP1 := v }) ∧
    (i = 7 → step s = .next { s with pending := rest, OP2 := v }) ∧
    (i = 8 → step s = settled (execute v { s with pending := rest })) ∧
    (i = 9 → step s = .next { s with pending := rest, STATUS := s.STATUS &&& ~~~(v.setWidth 2) }) ∧
    (i.toNat ≤ 4 ∨ 10 ≤ i.toNat → step s = .next { s with pending := rest, STATUS := s.STATUS ||| 2#2 })

/-- A write to STATUS clears each bit that is written 1 and leaves the other; nothing else changes
(10_state.md R26, 60_exceptions.md R206). -/
def Obligations.StatusBitsAreWriteOneToClear : Prop :=
  ∀ (s : State) (v : Word) (rest : List Event), s.pending = .write 9 v :: rest →
    ∃ st : BitVec 2, step s = .next { s with pending := rest, STATUS := st } ∧
      st.getLsbD 0 = (s.ILL && !v.getLsbD 0) ∧ st.getLsbD 1 = (s.BADACC && !v.getLsbD 1)

/-- A byte stored by the host's own path is what that address then reads as; every other byte and every register
is unchanged (20_memory.md R50, R64). -/
def Obligations.HostStoreIsVisible : Prop :=
  ∀ (s : State) (a : Word) (b : Byte) (rest : List Event), s.mem.wf = true → s.pending = .store a b :: rest →
    ∃ m : Memory, step s = .next { s with pending := rest, mem := m } ∧
      ∀ x : Word, m.read x.toNat = if x = a then b else s.byteAt x

/-- A store of another agent that overlaps the next command is recorded and changes nothing yet (20_memory.md R65;
the form is the model's choice, log 6). -/
def Obligations.OverlappingStoreIsRecorded : Prop :=
  ∀ (s : State) (a : Word) (b : Byte) (rest : List Event), s.pending = .race a b :: rest →
    step s = .next { s with pending := rest, rivals := s.rivals ++ [(a, b)] }

/-- When a command is over, each byte that other agents were writing is the last of their bytes, and every other
byte is as the command left it (the model's choice, log 6). -/
def Obligations.OverlappingStoresLandAfterCommand : Prop :=
  ∀ s : State, s.mem.wf = true →
    (∀ a : Word, s.settle.byteAt a = (((s.rivals.filter (fun r => r.1 == a)).map Prod.snd).getLast?).getD (s.byteAt a)) ∧
    s.settle = { s with mem := s.settle.mem, rivals := [] }

/-! ### Reset -/

/-- The reset event gives every register its reset value and leaves memory and what is outside the block
(70_reset_and_hazards.md R220). -/
def Obligations.ResetEventSetsRegisters : Prop :=
  ∀ (s : State) (rest : List Event), s.pending = .reset :: rest →
    step s = .next { s with pending := rest, S0 := 0, S1 := 0, A := 0xdeadbeef, B := 0xdeadbeef, C := 0xdeadbeef, OP0 := 0, OP1 := 0, OP2 := 0, STATUS := 0 }

/-- The state after reset has the values of 10_state.md R34, INFO reads its constant, and reset leaves memory. -/
def Obligations.ResetStateHoldsSpecValues : Prop :=
  State.reset.S0 = 0 ∧ State.reset.S1 = 0 ∧ State.reset.A = 0xdeadbeef ∧ State.reset.B = 0xdeadbeef ∧
  State.reset.C = 0xdeadbeef ∧ State.reset.OP0 = 0 ∧ State.reset.OP1 = 0 ∧ State.reset.OP2 = 0 ∧
  State.reset.STATUS = 0 ∧ State.reset.rd 10 = 0x00000C04 ∧ (∀ s : State, s.applyReset.mem = s.mem)

/-- Reset that arrives while a command runs: the registers take their reset values. Each byte of memory is as
before, or is a byte that the abandoned DIGEST would write there, or a byte another agent was writing there
(70_reset_and_hazards.md R221; that the overlapping stores are then complete is the model's choice, log 9). -/
def Obligations.AbandonedCommandLeavesResetRegisters : Prop :=
  ∀ (s : State) (w : Word) (rest : List Event), s.mem.wf = true → s.pending = .resetDuring w :: rest →
    ∃ (m : Memory) (n : Nat),
      step s = .next { s with pending := rest, S0 := 0, S1 := 0, A := 0xdeadbeef, B := 0xdeadbeef, C := 0xdeadbeef, OP0 := 0, OP1 := 0, OP2 := 0, STATUS := 0, mem := m, rivals := [], draws := n } ∧
      ∀ a : Word,
        (s.quiet a ∧ m.read a.toNat = s.byteAt a) ∨
        (w = 0x00000007 ∧ ∃ k < 4, a = s.OP0 + BitVec.ofNat 32 k ∧ m.read a.toNat = s.C.extractLsb' (24 - 8 * k) 8) ∨
        (∃ r ∈ s.rivals, r.1 = a ∧ m.read a.toNat = r.2)

/-! ### Seeding and loading -/

/-- SEED (41_seed_load.md R121, R120). -/
def Obligations.SeedInstallsPairAndTriple : Prop :=
  ∀ s : State, exec .seed s = .next
    { s with S0 := s.OP0, S1 := s.OP1, A := 0xdeadbeef + s.OP0, B := 0xdeadbeef + s.OP0, C := 0xdeadbeef + s.OP0 + s.OP1 }

/-- RESEED (41_seed_load.md R122). -/
def Obligations.ReseedRestoresSeededTriple : Prop :=
  ∀ s : State, exec .reseed s = .next
    { s with A := 0xdeadbeef + s.S0, B := 0xdeadbeef + s.S0, C := 0xdeadbeef + s.S0 + s.S1 }

/-- LOAD (41_seed_load.md R123). -/
def Obligations.LoadSetsTriple : Prop :=
  ∀ s : State, exec .load s = .next { s with A := s.OP0, B := s.OP1, C := s.OP2 }

/-- The properties of the seeding rule that 41_seed_load.md R124 derives: B = A, C - A = s1, A - 0xdeadbeef = s0,
distinct pairs give distinct triples, and the two pairs named there. -/
def Obligations.SeedRuleDeterminesPair : Prop :=
  (∀ s0 s1 : Word, (seedRule s0 s1).b = (seedRule s0 s1).a ∧ (seedRule s0 s1).c - (seedRule s0 s1).a = s1 ∧
    (seedRule s0 s1).a - 0xdeadbeef = s0) ∧
  (∀ s0 s1 r0 r1 : Word, seedRule s0 s1 = seedRule r0 r1 → s0 = r0 ∧ s1 = r1) ∧
  seedRule 0 0 = ⟨0xdeadbeef, 0xdeadbeef, 0xdeadbeef⟩ ∧ seedRule 0x21524111 0 = ⟨0, 0, 0⟩

/-! ### The datapath -/

/-- rot is the left rotation, with the corner cases of 40_datapath.md R100. -/
def Obligations.RotIsLeftRotation : Prop :=
  ∀ (x : Word) (k : Nat), 1 ≤ k → k ≤ 31 →
    rot x k = (x <<< k) ||| (x >>> (32 - k)) ∧ rot x k = x.rotateLeft k ∧ rot 0 k = 0 ∧ rot 0xFFFFFFFF k = 0xFFFFFFFF

/-- MIX is the six lines of 40_datapath.md R101, each intermediate value under a name of its own. -/
def Obligations.MixIsTheSixLines : Prop :=
  ∀ a0 b0 c0 : Word,
    let a1 := (a0 - c0) ^^^ c0.rotateLeft 4
    let c1 := c0 + b0
    let b1 := (b0 - a1) ^^^ a1.rotateLeft 6
    let a2 := a1 + c1
    let c2 := (c1 - b1) ^^^ b1.rotateLeft 8
    let b2 := b1 + a2
    let a3 := (a2 - c2) ^^^ c2.rotateLeft 16
    let c3 := c2 + b2
    let b3 := (b2 - a3) ^^^ a3.rotateLeft 19
    let a4 := a3 + c3
    let c4 := (c3 - b3) ^^^ b3.rotateLeft 4
    let b4 := b3 + a4
    mix ⟨a0, b0, c0⟩ = ⟨a4, b4, c4⟩

/-- FINAL is the seven lines of 40_datapath.md R102, each intermediate value under a name of its own. -/
def Obligations.FinalIsTheSevenLines : Prop :=
  ∀ a0 b0 c0 : Word,
    let c1 := (c0 ^^^ b0) - b0.rotateLeft 14
    let a1 := (a0 ^^^ c1) - c1.rotateLeft 11
    let b1 := (b0 ^^^ a1) - a1.rotateLeft 25
    let c2 := (c1 ^^^ b1) - b1.rotateLeft 16
    let a2 := (a1 ^^^ c2) - c2.rotateLeft 4
    let b2 := (b1 ^^^ a2) - a2.rotateLeft 14
    let c3 := (c2 ^^^ b2) - b2.rotateLeft 24
    final ⟨a0, b0, c0⟩ = ⟨a2, b2, c3⟩

/-- MIX is a bijection on triples, and MIXINV is its inverse (40_datapath.md R109, which derives it and checks it on
random triples only). -/
def Obligations.MixIsInvertible : Prop :=
  Function.Bijective mix ∧ ∀ t : Triple, mixInv (mix t) = t

/-- FINAL is a bijection on triples, and FINALINV is its inverse (40_datapath.md R110, which derives it and checks it
on random triples only). -/
def Obligations.FinalIsInvertible : Prop :=
  Function.Bijective final ∧ ∀ t : Triple, finalInv (final t) = t

/-- A zero triple stays zero through MIX, FINAL and any number of zero blocks (40_datapath.md R111). -/
def Obligations.ZeroTripleIsFixed : Prop :=
  mix ⟨0, 0, 0⟩ = ⟨0, 0, 0⟩ ∧ final ⟨0, 0, 0⟩ = ⟨0, 0, 0⟩ ∧
  ∀ k : Nat, (fun t => blockFn t 0 0 0)^[k] ⟨0, 0, 0⟩ = ⟨0, 0, 0⟩

/-- le32 is little-endian: the first byte is the least significant (40_datapath.md R104, 20_memory.md R53). -/
def Obligations.InputWordsAreLittleEndian : Prop :=
  ∀ b0 b1 b2 b3 : Byte,
    (le32 b0 b1 b2 b3).toNat = b0.toNat + 256 * b1.toNat + 65536 * b2.toNat + 16777216 * b3.toNat

/-- The operand form of tail absorption agrees with the byte form: when the operand words pack the tail bytes
little-endian, TAILADD_W gives what TAILADD gives, whatever the words hold beyond the tail (40_datapath.md R105,
20_memory.md R56). -/
def Obligations.TailAddOperandForm : Prop :=
  ∀ (t : Triple) (e : List Byte) (w0 w1 w2 : Word), e.length ≤ 12 →
    (∀ j : Nat, j < 4 → j < e.length → w0.extractLsb' (8 * j) 8 = e.getD j 0) →
    (∀ j : Nat, j < 4 → 4 + j < e.length → w1.extractLsb' (8 * j) 8 = e.getD (4 + j) 0) →
    (∀ j : Nat, j < 4 → 8 + j < e.length → w2.extractLsb' (8 * j) 8 = e.getD (8 + j) 0) →
    tailAdd t e = tailAddW t e.length w0 w1 w2

/-- UPDATEFN: while more than 12 bytes remain a block is absorbed; a remainder of 1 to 12 bytes is added and FINAL
follows; no bytes leave the triple (40_datapath.md R107). -/
def Obligations.UpdateFnFollowsItsSteps : Prop :=
  (∀ (d : List Byte) (t : Triple), 12 < d.length →
    updateFn d t = updateFn (d.drop 12)
      (mix ⟨t.a + le32 (d.getD 0 0) (d.getD 1 0) (d.getD 2 0) (d.getD 3 0),
        t.b + le32 (d.getD 4 0) (d.getD 5 0) (d.getD 6 0) (d.getD 7 0),
        t.c + le32 (d.getD 8 0) (d.getD 9 0) (d.getD 10 0) (d.getD 11 0)⟩)) ∧
  (∀ (d : List Byte) (t : Triple), 1 ≤ d.length → d.length ≤ 12 → updateFn d t = final (tailAdd t d)) ∧
  (∀ t : Triple, updateFn [] t = t)

/-- A non-empty input runs (L - 1) div 12 blocks, then 1 to 12 tail bytes and FINAL once (40_datapath.md R108). -/
def Obligations.UpdateFnBlockCount : Prop :=
  ∀ (d : List Byte) (t : Triple), d ≠ [] →
    1 ≤ d.length - 12 * ((d.length - 1) / 12) ∧ d.length - 12 * ((d.length - 1) / 12) ≤ 12 ∧
    updateFn d t =
      final (tailAdd (absorbBlocks ((d.length - 1) / 12) d t) (d.drop (12 * ((d.length - 1) / 12))))

/-- UPDATE is not incremental, even when the first piece is a whole block (43_update_digest.md R164). -/
def Obligations.UpdateIsNotIncremental : Prop :=
  ∃ (x1 x2 : List Byte) (t : Triple), x1.length = 12 ∧ x2.length = 1 ∧
    updateFn x2 (updateFn x1 t) ≠ updateFn (x1 ++ x2) t

/-- The 64-bit identifier has C as its low word and B as its high word (44_entry_points.md R185). -/
def Obligations.IdentifierWords : Prop :=
  ∀ c b : Word, (id64 c b).toNat = c.toNat + 4294967296 * b.toNat

/-! ### Absorbing commands -/

/-- BLOCK adds the operands and applies the Mix step; nothing else changes (42_absorb.md R140, 40_datapath.md R106). -/
def Obligations.BlockAbsorbsOperands : Prop :=
  ∀ s : State, ∃ t : Triple, t = mix ⟨s.A + s.OP0, s.B + s.OP1, s.C + s.OP2⟩ ∧
    exec .block s = .next { s with A := t.a, B := t.b, C := t.c }

/-- TAIL n: nothing for n = 0; for n = 1 to 12 the low bytes that n selects are added and FINAL follows; n of 13 or
more raises IllegalCommand. Nothing else changes (42_absorb.md R141, 40_datapath.md R105). -/
def Obligations.TailAbsorbsSelectedBytes : Prop :=
  ∀ (s : State) (n : Fin 16),
    (n.val = 0 → exec (.tail n) s = .next s) ∧
    (1 ≤ n.val → n.val ≤ 12 → ∃ t : Triple,
      t = final ⟨s.A + BitVec.ofNat 32 (s.OP0.toNat % 2 ^ (8 * min n.val 4)),
        s.B + BitVec.ofNat 32 (s.OP1.toNat % 2 ^ (8 * min (n.val - 4) 4)),
        s.C + BitVec.ofNat 32 (s.OP2.toNat % 2 ^ (8 * min (n.val - 8) 4))⟩ ∧
      exec (.tail n) s = .next { s with A := t.a, B := t.b, C := t.c }) ∧
    (13 ≤ n.val → exec (.tail n) s = .next { s with STATUS := s.STATUS ||| 1#2 })

/-- Operand bytes at positions n and above have no effect on TAIL n (42_absorb.md R141, 70_reset_and_hazards.md R228). -/
def Obligations.TailIgnoresStaleBytes : Prop :=
  ∀ (s : State) (n : Fin 16) (x0 x1 x2 : Word),
    (∀ j : Nat, j < 4 → j < n.val → x0.extractLsb' (8 * j) 8 = s.OP0.extractLsb' (8 * j) 8) →
    (∀ j : Nat, j < 4 → 4 + j < n.val → x1.extractLsb' (8 * j) 8 = s.OP1.extractLsb' (8 * j) 8) →
    (∀ j : Nat, j < 4 → 8 + j < n.val → x2.extractLsb' (8 * j) 8 = s.OP2.extractLsb' (8 * j) 8) →
    ∃ t : State, exec (.tail n) s = .next t ∧
      exec (.tail n) { s with OP0 := x0, OP1 := x1, OP2 := x2 } = .next { t with OP0 := x0, OP1 := x1, OP2 := x2 }

/-- BLOCK with zero operands is the Mix step alone, and TAIL n with every selected byte zero is the Final mix alone
(42_absorb.md R142). -/
def Obligations.ZeroOperandsGiveMixOrFinalAlone : Prop :=
  (∀ s : State, s.OP0 = 0 → s.OP1 = 0 → s.OP2 = 0 → exec .block s = .next (s.setAcc (mix s.acc))) ∧
  (∀ (s : State) (n : Fin 16), 1 ≤ n.val → n.val ≤ 12 →
    (∀ j : Nat, j < 4 → j < n.val → s.OP0.extractLsb' (8 * j) 8 = 0) →
    (∀ j : Nat, j < 4 → 4 + j < n.val → s.OP1.extractLsb' (8 * j) 8 = 0) →
    (∀ j : Nat, j < 4 → 8 + j < n.val → s.OP2.extractLsb' (8 * j) 8 = 0) →
    exec (.tail n) s = .next (s.setAcc (final s.acc)))

/-! ### Memory commands -/

/-- UPDATE completes whenever none of its input addresses lies in the block's own window. It computes UPDATEFN over
L bytes, each the byte of memory where no other agent is writing and any value elsewhere (43_update_digest.md R160,
20_memory.md R65). Nothing but A, B, C and the model's own draw counter changes. -/
def Obligations.UpdateRunsOverItsInput : Prop :=
  ∀ s : State, (∀ i : Nat, i < s.OP1.toNat → s.inWindow (s.OP0 + BitVec.ofNat 32 i) = false) →
    ∃ (d : List Byte) (t : Triple), d.length = s.OP1.toNat ∧
      (∀ i : Nat, i < s.OP1.toNat → s.quiet (s.OP0 + BitVec.ofNat 32 i) →
        d.getD i 0 = s.byteAt (s.OP0 + BitVec.ofNat 32 i)) ∧
      t = updateFn d ⟨s.A, s.B, s.C⟩ ∧
      exec .update s = .next { s with A := t.a, B := t.b, C := t.c, draws := s.draws + s.OP1.toNat }

/-- UPDATE with L = 0 changes nothing (43_update_digest.md R162). -/
def Obligations.UpdateOfNothingChangesNothing : Prop :=
  ∀ s : State, s.OP1 = 0 → exec .update s = .next s

/-- UPDATE depends on no byte of memory outside its input range: with the same input bytes it does the same
(20_memory.md R58). -/
def Obligations.UpdateReadsOnlyItsInput : Prop :=
  ∀ (s t : State) (m : Memory),
    (∀ i : Nat, i < s.OP1.toNat →
      m.read (s.OP0 + BitVec.ofNat 32 i).toNat = s.byteAt (s.OP0 + BitVec.ofNat 32 i)) →
    exec .update s = .next t → exec .update { s with mem := m } = .next { t with mem := m }

/-- DIGEST completes whenever none of its four addresses lies in the block's own window. Each of the four bytes is
C's, most significant first, or what another agent is writing there; every other byte and every register is
unchanged (43_update_digest.md R161, 20_memory.md R54, R59, R65). That an overlapping store of another agent is over
exactly when it is to one of the four is the model's deduction, which no rule states (log 6). -/
def Obligations.DigestWritesFourBytesBigEndian : Prop :=
  ∀ s : State, s.mem.wf = true → (∀ k : Nat, k < 4 → s.inWindow (s.OP0 + BitVec.ofNat 32 k) = false) →
    ∃ (m : Memory) (r : List (Word × Byte)) (n : Nat),
      exec .digest s = .next { s with mem := m, rivals := r, draws := n } ∧
      (∀ k : Nat, k < 4 →
        m.read (s.OP0 + BitVec.ofNat 32 k).toNat = s.C.extractLsb' (24 - 8 * k) 8 ∨
        ∃ x ∈ s.rivals, x.1 = s.OP0 + BitVec.ofNat 32 k ∧ m.read (s.OP0 + BitVec.ofNat 32 k).toNat = x.2) ∧
      (∀ a : Word, (∀ k : Nat, k < 4 → a ≠ s.OP0 + BitVec.ofNat 32 k) → m.read a.toNat = s.byteAt a) ∧
      (∀ x, x ∈ r ↔ x ∈ s.rivals ∧ ∀ k : Nat, k < 4 → x.1 ≠ s.OP0 + BitVec.ofNat 32 k)

/-- An UPDATE or a DIGEST one of whose addresses lies in the block's own window never completes: it stops as stuck
(70_reset_and_hazards.md R229). -/
def Obligations.MemoryCommandsStickInOwnWindow : Prop :=
  (∀ (s : State) (i : Nat), i < s.OP1.toNat → s.inWindow (s.OP0 + BitVec.ofNat 32 i) = true →
    exec .update s = .fault .selfAccess) ∧
  (∀ (s : State) (k : Nat), k < 4 → s.inWindow (s.OP0 + BitVec.ofNat 32 k) = true →
    exec .digest s = .fault .selfAccess)

/-- The window, where the platform has mapped it, is the 256 bytes from its base on, modulo 2^32 (from the offsets of
10_state.md R28; the model's reading, log 8); where the platform has not, no address lies in it. -/
def Obligations.WindowIsItsBytes : Prop :=
  ∀ (s : State) (a : Word), s.inWindow a = true ↔
    ∃ (base : Word) (j : Nat), s.memWindow = some base ∧ j < 256 ∧ a = base + BitVec.ofNat 32 j

/-! ### Memory and the whole machine -/

/-- Two memories in canonical form that read alike are equal (log 5). -/
def Obligations.CanonicalMemoryIsDeterminedByItsBytes : Prop :=
  ∀ m m' : Memory, m.wf = true → m'.wf = true → (∀ a : Word, m.read a.toNat = m'.read a.toNat) → m = m'

/-- Every step keeps memory in canonical form (log 5). -/
def Obligations.StepKeepsMemoryCanonical : Prop :=
  ∀ s t : State, s.mem.wf = true → step s = .next t → t.mem.wf = true

/-- Memory after reset is in canonical form (log 5). -/
def Obligations.ResetMemoryIsCanonical : Prop := State.reset.mem.wf = true

/-- S0 and S1 change only by SEED or reset (10_state.md R23). -/
def Obligations.SeedsChangeOnlyBySeedOrReset : Prop :=
  ∀ s t : State, step s = .next t → t.S0 ≠ s.S0 ∨ t.S1 ≠ s.S1 →
    ∃ (e : Event) (rest : List Event), s.pending = e :: rest ∧
      (e = .write 8 0x00000001 ∨ e = .reset ∨ ∃ w, e = .resetDuring w)

/-- A, B and C change only by the commands SEED, RESEED, LOAD, BLOCK, TAIL and UPDATE, or by reset (10_state.md R21). -/
def Obligations.AccumulatorChangesOnlyByCommands : Prop :=
  ∀ s t : State, step s = .next t → t.A ≠ s.A ∨ t.B ≠ s.B ∨ t.C ≠ s.C →
    ∃ (e : Event) (rest : List Event), s.pending = e :: rest ∧
      (e = .reset ∨ (∃ w, e = .resetDuring w) ∨
        ∃ (w : Word) (i : Instr), e = .write 8 w ∧ decode w = .ok i ∧ i ≠ .digest)

/-- OP0, OP1 and OP2 change only by a port write to them or by reset; no command writes them (10_state.md R24). -/
def Obligations.OperandsChangeOnlyByPortWrite : Prop :=
  ∀ s t : State, step s = .next t →
    (t.OP0 ≠ s.OP0 → ∃ (e : Event) (rest : List Event), s.pending = e :: rest ∧
      (e = .write 5 t.OP0 ∨ e = .reset ∨ ∃ w, e = .resetDuring w)) ∧
    (t.OP1 ≠ s.OP1 → ∃ (e : Event) (rest : List Event), s.pending = e :: rest ∧
      (e = .write 6 t.OP1 ∨ e = .reset ∨ ∃ w, e = .resetDuring w)) ∧
    (t.OP2 ≠ s.OP2 → ∃ (e : Event) (rest : List Event), s.pending = e :: rest ∧
      (e = .write 7 t.OP2 ∨ e = .reset ∨ ∃ w, e = .resetDuring w))

/-- A set STATUS bit is cleared only by a write of 1 to it or by reset (10_state.md R26, 60_exceptions.md R206). -/
def Obligations.ErrorBitsAreSticky : Prop :=
  ∀ s t : State, step s = .next t →
    (s.ILL = true → t.ILL = false → ∃ (e : Event) (rest : List Event), s.pending = e :: rest ∧
      ((∃ v : Word, e = .write 9 v ∧ v.getLsbD 0 = true) ∨ e = .reset ∨ ∃ w, e = .resetDuring w)) ∧
    (s.BADACC = true → t.BADACC = false → ∃ (e : Event) (rest : List Event), s.pending = e :: rest ∧
      ((∃ v : Word, e = .write 9 v ∧ v.getLsbD 1 = true) ∨ e = .reset ∨ ∃ w, e = .resetDuring w))

/-- ILL is set only by a CMD write of an illegal word, BADACC only by a write to a read-only or unmapped index
(60_exceptions.md R203). -/
def Obligations.ErrorBitsAreSetOnlyByTheirCause : Prop :=
  ∀ s t : State, step s = .next t →
    (s.ILL = false → t.ILL = true → ∃ (w : Word) (rest : List Event), s.pending = .write 8 w :: rest ∧
      ∀ i, decode w ≠ .ok i) ∧
    (s.BADACC = false → t.BADACC = true → ∃ (i : PortIndex) (v : Word) (rest : List Event),
      s.pending = .write i v :: rest ∧ (i.toNat ≤ 4 ∨ 10 ≤ i.toNat))

/-- A byte of memory changes only where a DIGEST writes (20_memory.md R50, R59; an abandoned one, 70_reset_and_hazards.md
R221), where the host stores, or where another agent's store overlapped a CMD write or an abandoned command. That such
a store changes memory exactly at the step it overlapped is the model's choice (log 6, log 9). -/
def Obligations.MemoryChangesOnlyWhereStored : Prop :=
  ∀ (s t : State) (a : Word), step s = .next t → t.byteAt a ≠ s.byteAt a →
    ∃ (e : Event) (rest : List Event), s.pending = e :: rest ∧
      ((e = .write 8 0x00000007 ∨ e = .resetDuring 0x00000007) ∧ (∃ k < 4, a = s.OP0 + BitVec.ofNat 32 k) ∨
        (∃ b, e = .store a b) ∨
        ((∃ w, e = .write 8 w ∨ e = .resetDuring w) ∧ ∃ r ∈ s.rivals, r.1 = a))

/-- Where the platform hides the window, as it must, every step completes: no command, access or event faults
(60_exceptions.md R202, 20_memory.md R62). -/
def Obligations.EveryStepCompletesWhenWindowHidden : Prop :=
  ∀ s : State, s.windowHidden → ∃ t, step s = .next t ∧ t.windowHidden

/-- Where the platform hides the window, a run of any length over any sequence of accesses, resets and stores never
stops, and memory stays in canonical form (60_exceptions.md R202). -/
def Obligations.RunNeverStopsWhenWindowHidden : Prop :=
  ∀ (k : Nat) (s : State), s.windowHidden → s.mem.wf = true →
    ∃ t, run k s = .next t ∧ t.windowHidden ∧ t.mem.wf = true

/-- A command does the same whatever STATUS holds, and leaves STATUS as it was: an earlier error stops no later
command (60_exceptions.md R206). -/
def Obligations.EarlierErrorStopsNoCommand : Prop :=
  ∀ (i : Instr) (s t : State) (st : BitVec 2), i.wf = true → exec i s = .next t →
    t.STATUS = s.STATUS ∧ exec i { s with STATUS := st } = .next { t with STATUS := st }

/-! ### Sequences of accesses -/

/-- The host-sequenced update: BLOCK for each full block and one TAIL leave in A, B, C what UPDATEFN gives over the
same bytes, and change no seed and no STATUS bit (42_absorb.md R143). -/
def Obligations.HostSequencedUpdateIsUpdateFn : Prop :=
  ∀ (s : State) (d : List Byte), ∃ t : State,
    run (hostUpdateAccesses d).length (s.issue (hostUpdateAccesses d)) = .next t ∧
    ⟨t.A, t.B, t.C⟩ = updateFn d ⟨s.A, s.B, s.C⟩ ∧
    t.S0 = s.S0 ∧ t.S1 = s.S1 ∧ t.STATUS = s.STATUS ∧ t.pending = s.pending ∧ t.returned = s.returned

/-- checksum: CHKINIT, UPDATE p, L and RD C return C of UPDATEFN from (0xdeadbeef, 0xdeadbeef, 0xdeadbeef), where the
platform hides the window and no other agent is writing (44_entry_points.md R180). The value returned is read off the
model's own list (log 4). -/
def Obligations.ChecksumReturnsC : Prop :=
  ∀ (s : State) (p l : Word), s.windowHidden → s.rivals = [] → ∃ t : State,
    run (checksumAccesses p l).length (s.issue (checksumAccesses p l)) = .next t ∧
    t.returned = s.returned ++ [(updateFn (s.bytesFrom p l.toNat) ⟨0xdeadbeef, 0xdeadbeef, 0xdeadbeef⟩).c] ∧
    t.mem = s.mem ∧ t.S0 = s.S0 ∧ t.S1 = s.S1 ∧ t.STATUS = s.STATUS ∧ t.pending = s.pending

/-- checksum_with_seeds and dual_checksum: SEED, UPDATE p, L and the reads return C, and C then B, of UPDATEFN from
the seeded triple, under the same premises (44_entry_points.md R181, R182). The values returned are read off the
model's own list (log 4). -/
def Obligations.SeededChecksumsReturnCThenB : Prop :=
  ∀ (s : State) (p l s0 s1 : Word), s.windowHidden → s.rivals = [] →
    ∃ r : Triple, r = updateFn (s.bytesFrom p l.toNat) ⟨0xdeadbeef + s0, 0xdeadbeef + s0, 0xdeadbeef + s0 + s1⟩ ∧
    (∃ t : State,
      run (checksumWithSeedsAccesses p l s0 s1).length (s.issue (checksumWithSeedsAccesses p l s0 s1)) = .next t ∧
      t.returned = s.returned ++ [r.c] ∧ t.mem = s.mem ∧ t.pending = s.pending) ∧
    (∃ t : State,
      run (dualChecksumAccesses p l s0 s1).length (s.issue (dualChecksumAccesses p l s0 s1)) = .next t ∧
      t.returned = s.returned ++ [r.c, r.b] ∧ t.mem = s.mem ∧ t.pending = s.pending)
end

