-- ==== Sys2Proof/Laws/Datapath.lean ====
section
/-! SUPPORT. The defining equations of the recursive datapath functions. -/

namespace Sys2Proof.Machine

@[simp] theorem tailAddFrom_nil (j : Nat) (t : Triple) : tailAddFrom j t [] = t := rfl

@[simp] theorem tailAddFrom_cons (j : Nat) (t : Triple) (e : Byte) (es : List Byte) :
    tailAddFrom j t (e :: es) = tailAddFrom (j + 1) (addTailByte t j e) es := rfl

@[simp] theorem finishTail_nil (t : Triple) : finishTail t [] = t := rfl

@[simp] theorem finishTail_cons (t : Triple) (e : Byte) (es : List Byte) :
    finishTail t (e :: es) = final (tailAdd t (e :: es)) := rfl

/-- The loop stops at once when at most 12 bytes remain. -/
theorem blockLoop_short (k : Nat) {d : List Byte} (h : d.length ≤ 12) (t : Triple) : blockLoop k d t = (t, d) := by
  cases k with
  | zero => rfl
  | succ k => simp [blockLoop, Config.blockBytes, Nat.not_lt.mpr h]

/-- One round of the loop. -/
theorem blockLoop_long (k : Nat) {d : List Byte} (h : 12 < d.length) (t : Triple) :
    blockLoop (k + 1) d t = blockLoop k (d.drop 12) (absorbBlock t d) := by
  simp [blockLoop, Config.blockBytes, h]

/-- Rounds beyond those the length of the sequence allows change nothing. -/
theorem blockLoop_enough {k k' : Nat} {d : List Byte} (hk : d.length ≤ k) (hk' : d.length ≤ k') (t : Triple) :
    blockLoop k d t = blockLoop k' d t := by
  induction k generalizing k' d t with
  | zero => rw [blockLoop_short k' (by omega)]; rfl
  | succ k ih =>
    by_cases h : 12 < d.length
    · obtain ⟨j, rfl⟩ : ∃ j, k' = j + 1 := ⟨k' - 1, by omega⟩
      rw [blockLoop_long _ h, blockLoop_long _ h]
      exact ih (by simp; omega) (by simp; omega) _
    · rw [blockLoop_short _ (by omega), blockLoop_short _ (by omega)]

@[simp] theorem absorbBlocks_zero (d : List Byte) (t : Triple) : absorbBlocks 0 d t = t := rfl

@[simp] theorem absorbBlocks_succ (k : Nat) (d : List Byte) (t : Triple) :
    absorbBlocks (k + 1) d t = absorbBlocks k (d.drop Config.blockBytes) (absorbBlock t d) := rfl

end Sys2Proof.Machine
end

