-- ==== Sys2Proof/Laws/Decode.lean ====
section
/-! SUPPORT. The fields of a command word as numbers. -/

namespace Sys2Proof

theorem opcField_toNat (w : Word) : (opcField w).toNat = w.toNat % 16 := by simp [opcField]

theorem nField_toNat (w : Word) : (nField w).toNat = w.toNat / 16 % 16 := by
  simp [nField, Nat.shiftRight_eq_div_pow]

theorem rsvField_toNat (w : Word) : (rsvField w).toNat = w.toNat / 256 := by
  simp only [rsvField, BitVec.extractLsb'_toNat, Nat.shiftRight_eq_div_pow]
  omega

/-- The reserved field is zero exactly for the numbers below 256. -/
theorem rsvField_eq_zero (w : Word) : rsvField w = 0 ↔ w.toNat / 256 = 0 := by
  rw [← rsvField_toNat, ← BitVec.toNat_inj]
  simp

theorem nField_eq_zero (w : Word) : nField w = 0 ↔ w.toNat / 16 % 16 = 0 := by
  rw [← nField_toNat, ← BitVec.toNat_inj]
  simp

/-- A TAIL is well formed exactly when its count is at most 12. -/
@[simp] theorem Instr.wf_tail (n : Fin 16) : (Instr.tail n).wf = true ↔ n.val ≤ 12 := by
  simp only [Instr.wf]
  exact decide_eq_true_iff

end Sys2Proof
end

