-- ==== Sys2Proof/Laws/Memory.lean ====
section
/-! SUPPORT. Memory: reading after writing, and the canonical form is kept by every operation and determines the memory. -/

namespace Sys2Proof.Machine

/-! ### Reading -/

@[simp] theorem Memory.read_nil (a : Nat) : Memory.read [] a = Config.unlistedByte := rfl

@[simp] theorem Memory.read_cell (x : Nat) (y : Byte) (m : Memory) (a : Nat) :
    Memory.read ((x, y) :: m) a = if x = a then y else Memory.read m a := rfl

/-- The canonical form from a later address on holds from an earlier one. -/
theorem Memory.wfFrom_mono {lo lo' : Nat} {m : Memory} (h : Memory.wfFrom lo m = true) (hle : lo' ≤ lo) :
    Memory.wfFrom lo' m = true := by
  cases m with
  | nil => rfl
  | cons c m =>
    simp only [Memory.wfFrom, Bool.and_eq_true, decide_eq_true_eq] at h ⊢
    exact ⟨⟨⟨Nat.le_trans hle h.1.1.1, h.1.1.2⟩, h.1.2⟩, h.2⟩

/-- An address below the canonical form's start is not listed. -/
theorem Memory.read_below {lo : Nat} {m : Memory} (h : Memory.wfFrom lo m = true) {a : Nat} (ha : a < lo) :
    Memory.read m a = Config.unlistedByte := by
  induction m generalizing lo with
  | nil => rfl
  | cons c m ih =>
    obtain ⟨x, y⟩ := c
    simp only [Memory.wfFrom, Bool.and_eq_true, decide_eq_true_eq] at h
    rw [Memory.read_cell, if_neg (by omega), ih h.2 (by omega)]

/-! ### Writing -/

/-- Reading through a cell put in front that may be left out. -/
theorem Memory.read_cons_ne (a : Nat) (b : Byte) (m : Memory) {a' : Nat} (h : a' ≠ a) :
    Memory.read (Memory.cons a b m) a' = Memory.read m a' := by
  unfold Memory.cons
  split
  · rfl
  · rw [Memory.read_cell, if_neg (Ne.symm h)]

/-- The cell put in front is what its address reads as, if that address is not listed behind it. -/
theorem Memory.read_cons_self (a : Nat) (b : Byte) (m : Memory) (h : Memory.read m a = Config.unlistedByte) :
    Memory.read (Memory.cons a b m) a = b := by
  unfold Memory.cons
  split
  · next hb => rw [h, hb]
  · rw [Memory.read_cell, if_pos rfl]

/-- A write leaves every other address alone. -/
theorem Memory.read_write_ne (m : Memory) (a : Nat) (b : Byte) {a' : Nat} (h : a' ≠ a) :
    Memory.read (Memory.write m a b) a' = Memory.read m a' := by
  induction m with
  | nil => exact Memory.read_cons_ne a b [] h
  | cons c m ih =>
    obtain ⟨x, y⟩ := c
    simp only [Memory.write]
    split
    · exact Memory.read_cons_ne a b _ h
    · split
      · next hax => rw [Memory.read_cons_ne a b m h, Memory.read_cell, if_neg (by omega)]
      · rw [Memory.read_cell, Memory.read_cell, ih]

/-- A read after a write to the same address gives the value written. -/
theorem Memory.read_write_self {lo : Nat} {m : Memory} (hm : Memory.wfFrom lo m = true) (a : Nat) (b : Byte) :
    Memory.read (Memory.write m a b) a = b := by
  induction m generalizing lo with
  | nil => exact Memory.read_cons_self a b [] rfl
  | cons c m ih =>
    obtain ⟨x, y⟩ := c
    simp only [Memory.wfFrom, Bool.and_eq_true, decide_eq_true_eq] at hm
    simp only [Memory.write]
    split
    · next hax =>
      refine Memory.read_cons_self a b _ ?_
      rw [Memory.read_cell, if_neg (by omega), Memory.read_below hm.2 (by omega)]
    · split
      · next hax => exact Memory.read_cons_self a b m (Memory.read_below hm.2 (by omega))
      · rw [Memory.read_cell, if_neg (by omega), ih hm.2]

/-! ### The canonical form -/

theorem Memory.cons_wfFrom {lo a : Nat} {b : Byte} {m : Memory} (hlo : lo ≤ a) (ha : a < 2 ^ 32)
    (hm : Memory.wfFrom (a + 1) m = true) : Memory.wfFrom lo (Memory.cons a b m) = true := by
  unfold Memory.cons
  split
  · exact Memory.wfFrom_mono hm (by omega)
  · next hb =>
    simp only [Memory.wfFrom, Bool.and_eq_true, decide_eq_true_eq]
    exact ⟨⟨⟨hlo, ha⟩, hb⟩, hm⟩

theorem Memory.write_wfFrom {lo : Nat} {m : Memory} (hm : Memory.wfFrom lo m = true) {a : Nat} (b : Byte)
    (hlo : lo ≤ a) (ha : a < 2 ^ 32) : Memory.wfFrom lo (Memory.write m a b) = true := by
  induction m generalizing lo with
  | nil => exact Memory.cons_wfFrom hlo ha rfl
  | cons c m ih =>
    obtain ⟨x, y⟩ := c
    have hc := hm
    simp only [Memory.wfFrom, Bool.and_eq_true, decide_eq_true_eq] at hm
    simp only [Memory.write]
    split
    · next hax =>
      refine Memory.cons_wfFrom hlo ha ?_
      simp only [Memory.wfFrom, Bool.and_eq_true, decide_eq_true_eq]
      exact ⟨⟨⟨by omega, hm.1.1.2⟩, hm.1.2⟩, hm.2⟩
    · split
      · next hax => exact Memory.cons_wfFrom hlo ha (by rw [hax]; exact hm.2)
      · simp only [Memory.wfFrom, Bool.and_eq_true, decide_eq_true_eq]
        exact ⟨hm.1, ih hm.2 (by omega)⟩

/-- Writing a byte at a 32-bit address keeps the canonical form. -/
theorem Memory.write_wf {m : Memory} (hm : m.wf = true) (a : Word) (b : Byte) : (m.write a.toNat b).wf = true :=
  Memory.write_wfFrom hm b (Nat.zero_le _) a.isLt

/-- Writing several bytes keeps the canonical form. -/
theorem Memory.foldl_write_wf (cells : List (Word × Byte)) {m : Memory} (hm : m.wf = true) :
    (cells.foldl (fun m r => m.write r.1.toNat r.2) m).wf = true := by
  induction cells generalizing m with
  | nil => exact hm
  | cons c cells ih => exact ih (Memory.write_wf hm c.1 c.2)

end Sys2Proof.Machine
end

