-- ==== Sys2Proof/Laws/State.lean ====
section
/-! SUPPORT. One lemma per field of State per named update, each true by rfl, so that no later proof unfolds a record update. -/

namespace Sys2Proof.Machine

variable (s : State)

/-! ### State.setAcc -/

@[simp] theorem State.setAcc_A (t : Triple) : (s.setAcc t).A = t.a := rfl
@[simp] theorem State.setAcc_B (t : Triple) : (s.setAcc t).B = t.b := rfl
@[simp] theorem State.setAcc_C (t : Triple) : (s.setAcc t).C = t.c := rfl
@[simp] theorem State.setAcc_S0 (t : Triple) : (s.setAcc t).S0 = s.S0 := rfl
@[simp] theorem State.setAcc_S1 (t : Triple) : (s.setAcc t).S1 = s.S1 := rfl
@[simp] theorem State.setAcc_OP0 (t : Triple) : (s.setAcc t).OP0 = s.OP0 := rfl
@[simp] theorem State.setAcc_OP1 (t : Triple) : (s.setAcc t).OP1 = s.OP1 := rfl
@[simp] theorem State.setAcc_OP2 (t : Triple) : (s.setAcc t).OP2 = s.OP2 := rfl
@[simp] theorem State.setAcc_STATUS (t : Triple) : (s.setAcc t).STATUS = s.STATUS := rfl
@[simp] theorem State.setAcc_mem (t : Triple) : (s.setAcc t).mem = s.mem := rfl
@[simp] theorem State.setAcc_memWindow (t : Triple) : (s.setAcc t).memWindow = s.memWindow := rfl
@[simp] theorem State.setAcc_rivals (t : Triple) : (s.setAcc t).rivals = s.rivals := rfl
@[simp] theorem State.setAcc_pending (t : Triple) : (s.setAcc t).pending = s.pending := rfl
@[simp] theorem State.setAcc_returned (t : Triple) : (s.setAcc t).returned = s.returned := rfl
@[simp] theorem State.setAcc_draws (t : Triple) : (s.setAcc t).draws = s.draws := rfl

/-! ### State.setSeeds -/

@[simp] theorem State.setSeeds_A (s0 s1 : Word) : (s.setSeeds s0 s1).A = s.A := rfl
@[simp] theorem State.setSeeds_B (s0 s1 : Word) : (s.setSeeds s0 s1).B = s.B := rfl
@[simp] theorem State.setSeeds_C (s0 s1 : Word) : (s.setSeeds s0 s1).C = s.C := rfl
@[simp] theorem State.setSeeds_S0 (s0 s1 : Word) : (s.setSeeds s0 s1).S0 = s0 := rfl
@[simp] theorem State.setSeeds_S1 (s0 s1 : Word) : (s.setSeeds s0 s1).S1 = s1 := rfl
@[simp] theorem State.setSeeds_OP0 (s0 s1 : Word) : (s.setSeeds s0 s1).OP0 = s.OP0 := rfl
@[simp] theorem State.setSeeds_OP1 (s0 s1 : Word) : (s.setSeeds s0 s1).OP1 = s.OP1 := rfl
@[simp] theorem State.setSeeds_OP2 (s0 s1 : Word) : (s.setSeeds s0 s1).OP2 = s.OP2 := rfl
@[simp] theorem State.setSeeds_STATUS (s0 s1 : Word) : (s.setSeeds s0 s1).STATUS = s.STATUS := rfl
@[simp] theorem State.setSeeds_mem (s0 s1 : Word) : (s.setSeeds s0 s1).mem = s.mem := rfl
@[simp] theorem State.setSeeds_memWindow (s0 s1 : Word) : (s.setSeeds s0 s1).memWindow = s.memWindow := rfl
@[simp] theorem State.setSeeds_rivals (s0 s1 : Word) : (s.setSeeds s0 s1).rivals = s.rivals := rfl
@[simp] theorem State.setSeeds_pending (s0 s1 : Word) : (s.setSeeds s0 s1).pending = s.pending := rfl
@[simp] theorem State.setSeeds_returned (s0 s1 : Word) : (s.setSeeds s0 s1).returned = s.returned := rfl
@[simp] theorem State.setSeeds_draws (s0 s1 : Word) : (s.setSeeds s0 s1).draws = s.draws := rfl

/-! ### State.raise -/

@[simp] theorem State.raise_A (c : Cause) : (s.raise c).A = s.A := rfl
@[simp] theorem State.raise_B (c : Cause) : (s.raise c).B = s.B := rfl
@[simp] theorem State.raise_C (c : Cause) : (s.raise c).C = s.C := rfl
@[simp] theorem State.raise_S0 (c : Cause) : (s.raise c).S0 = s.S0 := rfl
@[simp] theorem State.raise_S1 (c : Cause) : (s.raise c).S1 = s.S1 := rfl
@[simp] theorem State.raise_OP0 (c : Cause) : (s.raise c).OP0 = s.OP0 := rfl
@[simp] theorem State.raise_OP1 (c : Cause) : (s.raise c).OP1 = s.OP1 := rfl
@[simp] theorem State.raise_OP2 (c : Cause) : (s.raise c).OP2 = s.OP2 := rfl
@[simp] theorem State.raise_STATUS (c : Cause) : (s.raise c).STATUS = statusSet c s.STATUS := rfl
@[simp] theorem State.raise_mem (c : Cause) : (s.raise c).mem = s.mem := rfl
@[simp] theorem State.raise_memWindow (c : Cause) : (s.raise c).memWindow = s.memWindow := rfl
@[simp] theorem State.raise_rivals (c : Cause) : (s.raise c).rivals = s.rivals := rfl
@[simp] theorem State.raise_pending (c : Cause) : (s.raise c).pending = s.pending := rfl
@[simp] theorem State.raise_returned (c : Cause) : (s.raise c).returned = s.returned := rfl
@[simp] theorem State.raise_draws (c : Cause) : (s.raise c).draws = s.draws := rfl

/-! ### State.setByte -/

@[simp] theorem State.setByte_A (a : Word) (b : Byte) : (s.setByte a b).A = s.A := rfl
@[simp] theorem State.setByte_B (a : Word) (b : Byte) : (s.setByte a b).B = s.B := rfl
@[simp] theorem State.setByte_C (a : Word) (b : Byte) : (s.setByte a b).C = s.C := rfl
@[simp] theorem State.setByte_S0 (a : Word) (b : Byte) : (s.setByte a b).S0 = s.S0 := rfl
@[simp] theorem State.setByte_S1 (a : Word) (b : Byte) : (s.setByte a b).S1 = s.S1 := rfl
@[simp] theorem State.setByte_OP0 (a : Word) (b : Byte) : (s.setByte a b).OP0 = s.OP0 := rfl
@[simp] theorem State.setByte_OP1 (a : Word) (b : Byte) : (s.setByte a b).OP1 = s.OP1 := rfl
@[simp] theorem State.setByte_OP2 (a : Word) (b : Byte) : (s.setByte a b).OP2 = s.OP2 := rfl
@[simp] theorem State.setByte_STATUS (a : Word) (b : Byte) : (s.setByte a b).STATUS = s.STATUS := rfl
@[simp] theorem State.setByte_mem (a : Word) (b : Byte) : (s.setByte a b).mem = s.mem.write a.toNat b := rfl
@[simp] theorem State.setByte_memWindow (a : Word) (b : Byte) : (s.setByte a b).memWindow = s.memWindow := rfl
@[simp] theorem State.setByte_rivals (a : Word) (b : Byte) : (s.setByte a b).rivals = s.rivals := rfl
@[simp] theorem State.setByte_pending (a : Word) (b : Byte) : (s.setByte a b).pending = s.pending := rfl
@[simp] theorem State.setByte_returned (a : Word) (b : Byte) : (s.setByte a b).returned = s.returned := rfl
@[simp] theorem State.setByte_draws (a : Word) (b : Byte) : (s.setByte a b).draws = s.draws := rfl

/-! ### State.storeByte -/

@[simp] theorem State.storeByte_A (a : Word) (b : Byte) : (s.storeByte a b).A = s.A := rfl
@[simp] theorem State.storeByte_B (a : Word) (b : Byte) : (s.storeByte a b).B = s.B := rfl
@[simp] theorem State.storeByte_C (a : Word) (b : Byte) : (s.storeByte a b).C = s.C := rfl
@[simp] theorem State.storeByte_S0 (a : Word) (b : Byte) : (s.storeByte a b).S0 = s.S0 := rfl
@[simp] theorem State.storeByte_S1 (a : Word) (b : Byte) : (s.storeByte a b).S1 = s.S1 := rfl
@[simp] theorem State.storeByte_OP0 (a : Word) (b : Byte) : (s.storeByte a b).OP0 = s.OP0 := rfl
@[simp] theorem State.storeByte_OP1 (a : Word) (b : Byte) : (s.storeByte a b).OP1 = s.OP1 := rfl
@[simp] theorem State.storeByte_OP2 (a : Word) (b : Byte) : (s.storeByte a b).OP2 = s.OP2 := rfl
@[simp] theorem State.storeByte_STATUS (a : Word) (b : Byte) : (s.storeByte a b).STATUS = s.STATUS := rfl
@[simp] theorem State.storeByte_mem (a : Word) (b : Byte) : (s.storeByte a b).mem = s.mem.write a.toNat (pickByte s.draws b (s.rivalBytes a)) := rfl
@[simp] theorem State.storeByte_memWindow (a : Word) (b : Byte) : (s.storeByte a b).memWindow = s.memWindow := rfl
@[simp] theorem State.storeByte_rivals (a : Word) (b : Byte) : (s.storeByte a b).rivals = s.rivals.filter (fun r => !(r.1 == a)) := rfl
@[simp] theorem State.storeByte_pending (a : Word) (b : Byte) : (s.storeByte a b).pending = s.pending := rfl
@[simp] theorem State.storeByte_returned (a : Word) (b : Byte) : (s.storeByte a b).returned = s.returned := rfl
@[simp] theorem State.storeByte_draws (a : Word) (b : Byte) : (s.storeByte a b).draws = s.draws + 1 := rfl

/-! ### State.settle -/

@[simp] theorem State.settle_A : (s.settle).A = s.A := rfl
@[simp] theorem State.settle_B : (s.settle).B = s.B := rfl
@[simp] theorem State.settle_C : (s.settle).C = s.C := rfl
@[simp] theorem State.settle_S0 : (s.settle).S0 = s.S0 := rfl
@[simp] theorem State.settle_S1 : (s.settle).S1 = s.S1 := rfl
@[simp] theorem State.settle_OP0 : (s.settle).OP0 = s.OP0 := rfl
@[simp] theorem State.settle_OP1 : (s.settle).OP1 = s.OP1 := rfl
@[simp] theorem State.settle_OP2 : (s.settle).OP2 = s.OP2 := rfl
@[simp] theorem State.settle_STATUS : (s.settle).STATUS = s.STATUS := rfl
@[simp] theorem State.settle_mem : (s.settle).mem = s.rivals.foldl (fun m r => m.write r.1.toNat r.2) s.mem := rfl
@[simp] theorem State.settle_memWindow : (s.settle).memWindow = s.memWindow := rfl
@[simp] theorem State.settle_rivals : (s.settle).rivals = [] := rfl
@[simp] theorem State.settle_pending : (s.settle).pending = s.pending := rfl
@[simp] theorem State.settle_returned : (s.settle).returned = s.returned := rfl
@[simp] theorem State.settle_draws : (s.settle).draws = s.draws := rfl

/-! ### State.portRead -/

@[simp] theorem State.portRead_A (i : PortIndex) : (s.portRead i).A = s.A := rfl
@[simp] theorem State.portRead_B (i : PortIndex) : (s.portRead i).B = s.B := rfl
@[simp] theorem State.portRead_C (i : PortIndex) : (s.portRead i).C = s.C := rfl
@[simp] theorem State.portRead_S0 (i : PortIndex) : (s.portRead i).S0 = s.S0 := rfl
@[simp] theorem State.portRead_S1 (i : PortIndex) : (s.portRead i).S1 = s.S1 := rfl
@[simp] theorem State.portRead_OP0 (i : PortIndex) : (s.portRead i).OP0 = s.OP0 := rfl
@[simp] theorem State.portRead_OP1 (i : PortIndex) : (s.portRead i).OP1 = s.OP1 := rfl
@[simp] theorem State.portRead_OP2 (i : PortIndex) : (s.portRead i).OP2 = s.OP2 := rfl
@[simp] theorem State.portRead_STATUS (i : PortIndex) : (s.portRead i).STATUS = s.STATUS := rfl
@[simp] theorem State.portRead_mem (i : PortIndex) : (s.portRead i).mem = s.mem := rfl
@[simp] theorem State.portRead_memWindow (i : PortIndex) : (s.portRead i).memWindow = s.memWindow := rfl
@[simp] theorem State.portRead_rivals (i : PortIndex) : (s.portRead i).rivals = s.rivals := rfl
@[simp] theorem State.portRead_pending (i : PortIndex) : (s.portRead i).pending = s.pending := rfl
@[simp] theorem State.portRead_returned (i : PortIndex) : (s.portRead i).returned = s.returned ++ [s.rd i] := rfl
@[simp] theorem State.portRead_draws (i : PortIndex) : (s.portRead i).draws = s.draws := rfl

/-! ### State.applyReset -/

@[simp] theorem State.applyReset_A : (s.applyReset).A = (seedRule 0 0).a := rfl
@[simp] theorem State.applyReset_B : (s.applyReset).B = (seedRule 0 0).b := rfl
@[simp] theorem State.applyReset_C : (s.applyReset).C = (seedRule 0 0).c := rfl
@[simp] theorem State.applyReset_S0 : (s.applyReset).S0 = 0 := rfl
@[simp] theorem State.applyReset_S1 : (s.applyReset).S1 = 0 := rfl
@[simp] theorem State.applyReset_OP0 : (s.applyReset).OP0 = 0 := rfl
@[simp] theorem State.applyReset_OP1 : (s.applyReset).OP1 = 0 := rfl
@[simp] theorem State.applyReset_OP2 : (s.applyReset).OP2 = 0 := rfl
@[simp] theorem State.applyReset_STATUS : (s.applyReset).STATUS = 0 := rfl
@[simp] theorem State.applyReset_mem : (s.applyReset).mem = s.mem := rfl
@[simp] theorem State.applyReset_memWindow : (s.applyReset).memWindow = s.memWindow := rfl
@[simp] theorem State.applyReset_rivals : (s.applyReset).rivals = s.rivals := rfl
@[simp] theorem State.applyReset_pending : (s.applyReset).pending = s.pending := rfl
@[simp] theorem State.applyReset_returned : (s.applyReset).returned = s.returned := rfl
@[simp] theorem State.applyReset_draws : (s.applyReset).draws = s.draws := rfl

/-! ### State.advance -/

@[simp] theorem State.advance_A (n : Nat) : (s.advance n).A = s.A := rfl
@[simp] theorem State.advance_B (n : Nat) : (s.advance n).B = s.B := rfl
@[simp] theorem State.advance_C (n : Nat) : (s.advance n).C = s.C := rfl
@[simp] theorem State.advance_S0 (n : Nat) : (s.advance n).S0 = s.S0 := rfl
@[simp] theorem State.advance_S1 (n : Nat) : (s.advance n).S1 = s.S1 := rfl
@[simp] theorem State.advance_OP0 (n : Nat) : (s.advance n).OP0 = s.OP0 := rfl
@[simp] theorem State.advance_OP1 (n : Nat) : (s.advance n).OP1 = s.OP1 := rfl
@[simp] theorem State.advance_OP2 (n : Nat) : (s.advance n).OP2 = s.OP2 := rfl
@[simp] theorem State.advance_STATUS (n : Nat) : (s.advance n).STATUS = s.STATUS := rfl
@[simp] theorem State.advance_mem (n : Nat) : (s.advance n).mem = s.mem := rfl
@[simp] theorem State.advance_memWindow (n : Nat) : (s.advance n).memWindow = s.memWindow := rfl
@[simp] theorem State.advance_rivals (n : Nat) : (s.advance n).rivals = s.rivals := rfl
@[simp] theorem State.advance_pending (n : Nat) : (s.advance n).pending = s.pending := rfl
@[simp] theorem State.advance_returned (n : Nat) : (s.advance n).returned = s.returned := rfl
@[simp] theorem State.advance_draws (n : Nat) : (s.advance n).draws = s.draws + n := rfl

/-! ### State.take -/

@[simp] theorem State.take_A (rest : List Event) : (s.take rest).A = s.A := rfl
@[simp] theorem State.take_B (rest : List Event) : (s.take rest).B = s.B := rfl
@[simp] theorem State.take_C (rest : List Event) : (s.take rest).C = s.C := rfl
@[simp] theorem State.take_S0 (rest : List Event) : (s.take rest).S0 = s.S0 := rfl
@[simp] theorem State.take_S1 (rest : List Event) : (s.take rest).S1 = s.S1 := rfl
@[simp] theorem State.take_OP0 (rest : List Event) : (s.take rest).OP0 = s.OP0 := rfl
@[simp] theorem State.take_OP1 (rest : List Event) : (s.take rest).OP1 = s.OP1 := rfl
@[simp] theorem State.take_OP2 (rest : List Event) : (s.take rest).OP2 = s.OP2 := rfl
@[simp] theorem State.take_STATUS (rest : List Event) : (s.take rest).STATUS = s.STATUS := rfl
@[simp] theorem State.take_mem (rest : List Event) : (s.take rest).mem = s.mem := rfl
@[simp] theorem State.take_memWindow (rest : List Event) : (s.take rest).memWindow = s.memWindow := rfl
@[simp] theorem State.take_rivals (rest : List Event) : (s.take rest).rivals = s.rivals := rfl
@[simp] theorem State.take_pending (rest : List Event) : (s.take rest).pending = rest := rfl
@[simp] theorem State.take_returned (rest : List Event) : (s.take rest).returned = s.returned := rfl
@[simp] theorem State.take_draws (rest : List Event) : (s.take rest).draws = s.draws := rfl

/-! ### State.issue -/

@[simp] theorem State.issue_A (es : List Event) : (s.issue es).A = s.A := rfl
@[simp] theorem State.issue_B (es : List Event) : (s.issue es).B = s.B := rfl
@[simp] theorem State.issue_C (es : List Event) : (s.issue es).C = s.C := rfl
@[simp] theorem State.issue_S0 (es : List Event) : (s.issue es).S0 = s.S0 := rfl
@[simp] theorem State.issue_S1 (es : List Event) : (s.issue es).S1 = s.S1 := rfl
@[simp] theorem State.issue_OP0 (es : List Event) : (s.issue es).OP0 = s.OP0 := rfl
@[simp] theorem State.issue_OP1 (es : List Event) : (s.issue es).OP1 = s.OP1 := rfl
@[simp] theorem State.issue_OP2 (es : List Event) : (s.issue es).OP2 = s.OP2 := rfl
@[simp] theorem State.issue_STATUS (es : List Event) : (s.issue es).STATUS = s.STATUS := rfl
@[simp] theorem State.issue_mem (es : List Event) : (s.issue es).mem = s.mem := rfl
@[simp] theorem State.issue_memWindow (es : List Event) : (s.issue es).memWindow = s.memWindow := rfl
@[simp] theorem State.issue_rivals (es : List Event) : (s.issue es).rivals = s.rivals := rfl
@[simp] theorem State.issue_pending (es : List Event) : (s.issue es).pending = es ++ s.pending := rfl
@[simp] theorem State.issue_returned (es : List Event) : (s.issue es).returned = s.returned := rfl
@[simp] theorem State.issue_draws (es : List Event) : (s.issue es).draws = s.draws := rfl

/-- The accumulator triple after setAcc. -/
@[simp] theorem State.setAcc_acc (t : Triple) : (s.setAcc t).acc = t := rfl

/-- Installing the triple that is there changes nothing. -/
@[simp] theorem State.setAcc_self : s.setAcc s.acc = s := rfl

/-- Taking the pending events that are there changes nothing. -/
@[simp] theorem State.take_self : s.take s.pending = s := rfl

end Sys2Proof.Machine
end

