-- ==== Sys2Proof/Laws/Ops.lean ====
section
/-! SUPPORT. What each shared operation can do, once: bytes of the state, contended bytes, the register window, STATUS, the port, reset. -/

namespace Sys2Proof.Machine

/-! ### Bytes of the state -/

theorem State.setByte_byteAt {s : State} (hs : s.mem.wf = true) (a : Word) (b : Byte) (a' : Word) :
    (s.setByte a b).byteAt a' = if a' = a then b else s.byteAt a' := by
  unfold State.byteAt
  split
  · next h => subst h; exact Memory.read_write_self hs _ _
  · next h => exact Memory.read_write_ne _ _ _ (fun e => h (BitVec.eq_of_toNat_eq e))

/-- A contended byte is the writer's own byte or one of the others'. -/
theorem pickByte_cases (n : Nat) (b : Byte) (others : List Byte) :
    pickByte n b others = b ∨ pickByte n b others ∈ others := by
  cases others with
  | nil => exact .inl rfl
  | cons o os =>
    have h : Config.freeChoice n % (os.length + 2) < (b :: o :: os).length := by
      simp only [List.length_cons]
      exact Nat.mod_lt _ (by omega)
    have hm := List.getElem_mem h
    simp only [pickByte, List.getD_eq_getElem?_getD, List.getElem?_eq_getElem h, Option.getD_some]
    exact List.mem_cons.mp hm

@[simp] theorem pickByte_nil (n : Nat) (b : Byte) : pickByte n b [] = b := rfl

/-- The values written at an address come from the rivals at that address. -/
theorem State.mem_rivalBytes {s : State} {a : Word} {b : Byte} : b ∈ s.rivalBytes a ↔ (a, b) ∈ s.rivals := by
  simp [State.rivalBytes]

/-- No other agent writes at a quiet address. -/
theorem State.rivalBytes_quiet {s : State} {a : Word} (h : s.quiet a) : s.rivalBytes a = [] := by
  refine List.eq_nil_iff_forall_not_mem.mpr (fun b hb => ?_)
  exact h _ (State.mem_rivalBytes.mp hb) rfl

/-- A read at a quiet address is a read of memory. -/
theorem State.loadByte_quiet {s : State} {a : Word} (h : s.quiet a) (n : Nat) : s.loadByte n a = s.byteAt a := by
  simp [State.loadByte, State.rivalBytes_quiet h]

/-- MemWrite touches memory, the rivals and the draws only. -/
theorem State.storeBytes_frame (cells : List (Word × Byte)) (s : State) :
    ∃ m r n, s.storeBytes cells = { s with mem := m, rivals := r, draws := n } := by
  induction cells generalizing s with
  | nil => exact ⟨_, _, _, rfl⟩
  | cons c cells ih =>
    obtain ⟨m, r, n, h⟩ := ih (s.storeByte c.1 c.2)
    exact ⟨m, r, n, h⟩

theorem State.storeByte_wf {s : State} (hs : s.mem.wf = true) (a : Word) (b : Byte) :
    (s.storeByte a b).mem.wf = true := Memory.write_wf hs a _

theorem State.storeBytes_wf (cells : List (Word × Byte)) {s : State} (hs : s.mem.wf = true) :
    (s.storeBytes cells).mem.wf = true := by
  induction cells generalizing s with
  | nil => exact hs
  | cons c cells ih => exact ih (State.storeByte_wf hs c.1 c.2)

/-- A store of a byte leaves every other address alone. -/
theorem State.storeByte_other (s : State) {a a' : Word} (b : Byte) (h : a' ≠ a) :
    (s.storeByte a b).byteAt a' = s.byteAt a' :=
  Memory.read_write_ne _ _ _ (fun e => h (BitVec.eq_of_toNat_eq e))

/-- An abandoned DIGEST touches memory, the rivals and the draws only. -/
theorem State.storeSome_frame (cells : List (Word × Byte)) (s : State) :
    ∃ m r n, s.storeSome cells = { s with mem := m, rivals := r, draws := n } := by
  induction cells generalizing s with
  | nil => exact ⟨_, _, _, rfl⟩
  | cons c cells ih =>
    simp only [State.storeSome]
    split
    · obtain ⟨m, r, n, h⟩ := ih ((s.advance 1).storeByte c.1 c.2)
      exact ⟨m, r, n, h⟩
    · obtain ⟨m, r, n, h⟩ := ih (s.advance 1)
      exact ⟨m, r, n, h⟩

theorem State.storeSome_wf (cells : List (Word × Byte)) {s : State} (hs : s.mem.wf = true) :
    (s.storeSome cells).mem.wf = true := by
  induction cells generalizing s with
  | nil => exact hs
  | cons c cells ih =>
    simp only [State.storeSome]
    split
    · exact ih (State.storeByte_wf (s := s.advance 1) hs c.1 c.2)
    · exact ih (s := s.advance 1) hs

theorem State.settle_wf {s : State} (hs : s.mem.wf = true) : s.settle.mem.wf = true :=
  Memory.foldl_write_wf _ hs

/-- Nothing is in progress: settling changes nothing. -/
theorem State.settle_calm {s : State} (h : s.rivals = []) : s.settle = s := by
  obtain ⟨⟩ := s
  simp only at h
  subst h
  rfl

/-! ### The register window -/

@[simp] theorem State.inWindow_hidden {s : State} (h : s.memWindow = none) (a : Word) : s.inWindow a = false := by
  simp [State.inWindow, h]

@[simp] theorem State.reachesWindow_hidden {s : State} (h : s.memWindow = none) (l : List Word) :
    s.reachesWindow l = false := by
  simp [State.reachesWindow, State.inWindow_hidden h]

/-- Where the window is mapped, an address lies in it when its distance from the base is below 256. -/
theorem State.inWindow_mapped {s : State} {base : Word} (h : s.memWindow = some base) (a : Word) :
    s.inWindow a = true ↔ (a - base).toNat < 256 := by
  unfold State.inWindow
  rw [h]
  exact decide_eq_true_iff

/-! ### STATUS -/

theorem statusSet_illegalCommand (st : BitVec 2) : statusSet .illegalCommand st = st ||| 1#2 := rfl

theorem statusSet_badAccess (st : BitVec 2) : statusSet .badAccess st = st ||| 2#2 := rfl

/-- The write of v to STATUS, bit by bit. -/
theorem statusClear_getLsbD (v : Word) (st : BitVec 2) {j : Nat} (hj : j < 2) :
    (statusClear v st).getLsbD j = (st.getLsbD j && !v.getLsbD j) := by
  simp [statusClear, hj]

/-! ### The port -/

/-- A port write to an index other than CMD touches the operands and STATUS only. -/
theorem State.writeReg_frame (s : State) (i : PortIndex) (v : Word) :
    ∃ x0 x1 x2 st, s.writeReg i v = { s with OP0 := x0, OP1 := x1, OP2 := x2, STATUS := st } := by
  unfold State.writeReg
  split <;> exact ⟨_, _, _, _, rfl⟩

/-! ### Reset -/

/-- The reset state is what the reset event leaves of it (10_state.md R34). -/
theorem State.applyReset_reset : State.reset.applyReset = State.reset := rfl

end Sys2Proof.Machine
end

