-- ==== Sys2Proof/Laws/PerInstr.lean ====
section
/-! SUPPORT. The family EncodeLegal: the word of a well-formed instruction is legal (30_encoding.md R83, R84). -/

/-- The word of a well-formed instruction is one of the 19 legal words. -/
def Sys2Proof.Laws.EncodeLegal.Statement (i : Sys2Proof.Instr) : Prop :=
  i.wf = true → Sys2Proof.Machine.legal (Sys2Proof.encode i)

theorem Sys2Proof.Laws.EncodeLegal.seed : Sys2Proof.Laws.EncodeLegal.Statement .seed := fun _ => by
  unfold Sys2Proof.Machine.legal; decide

theorem Sys2Proof.Laws.EncodeLegal.reseed : Sys2Proof.Laws.EncodeLegal.Statement .reseed := fun _ => by
  unfold Sys2Proof.Machine.legal; decide

theorem Sys2Proof.Laws.EncodeLegal.load : Sys2Proof.Laws.EncodeLegal.Statement .load := fun _ => by
  unfold Sys2Proof.Machine.legal; decide

theorem Sys2Proof.Laws.EncodeLegal.block : Sys2Proof.Laws.EncodeLegal.Statement .block := fun _ => by
  unfold Sys2Proof.Machine.legal; decide

theorem Sys2Proof.Laws.EncodeLegal.tail (n : Fin 16) : Sys2Proof.Laws.EncodeLegal.Statement (.tail n) := by
  unfold Sys2Proof.Laws.EncodeLegal.Statement Sys2Proof.Machine.legal
  revert n
  decide

theorem Sys2Proof.Laws.EncodeLegal.update : Sys2Proof.Laws.EncodeLegal.Statement .update := fun _ => by
  unfold Sys2Proof.Machine.legal; decide

theorem Sys2Proof.Laws.EncodeLegal.digest : Sys2Proof.Laws.EncodeLegal.Statement .digest := fun _ => by
  unfold Sys2Proof.Machine.legal; decide
end

