-- ==== Sys2Proof/Laws/Step.lean ====
section
/-! SUPPORT. What a step, an event and a command can do, once. -/

namespace Sys2Proof.Machine

/-! ### A step -/

/-- A step that answers a next state held an idle state, or performed the oldest event. -/
theorem step_cases {s t : State} (h : step s = .next t) :
    (s.pending = [] ∧ t = s) ∨ ∃ e rest, s.pending = e :: rest ∧ perform e (s.take rest) = .next t := by
  unfold step at h
  split at h
  · next hp => cases h; exact .inl ⟨hp, rfl⟩
  · next e rest hp => exact .inr ⟨e, rest, hp, h⟩

/-- A step with a pending event performs it. -/
theorem step_pending {s : State} {e : Event} {rest : List Event} (h : s.pending = e :: rest) :
    step s = perform e (s.take rest) := by
  simp [step, h]

/-! ### An event -/

@[simp] theorem perform_read (i : PortIndex) (s : State) : perform (.read i) s = .next (s.portRead i) := rfl

@[simp] theorem perform_write (i : PortIndex) (v : Word) (s : State) : perform (.write i v) s = portWrite i v s := rfl

@[simp] theorem perform_reset (s : State) : perform .reset s = .next s.applyReset := rfl

@[simp] theorem perform_resetDuring (w : Word) (s : State) :
    perform (.resetDuring w) s = .next (s.abandon w).settle.applyReset := rfl

@[simp] theorem perform_store (a : Word) (b : Byte) (s : State) : perform (.store a b) s = .next (s.setByte a b) := rfl

@[simp] theorem perform_race (a : Word) (b : Byte) (s : State) :
    perform (.race a b) s = .next { s with rivals := s.rivals ++ [(a, b)] } := rfl

@[simp] theorem portWrite_cmd (w : Word) (s : State) : portWrite cmdIndex w s = settled (execute w s) := by
  simp [portWrite]

theorem portWrite_reg {i : PortIndex} (h : i ≠ cmdIndex) (v : Word) (s : State) :
    portWrite i v s = .next (s.writeReg i v) := by
  simp [portWrite, h]

@[simp] theorem settled_next (s : State) : settled (.next s) = .next s.settle := rfl

@[simp] theorem settled_fault (r : Fault) : settled (.fault r) = .fault r := rfl

/-- A settled outcome that is a next state comes from one. -/
theorem settled_cases {o : Host.Outcome State Fault Refusal} {t : State} (h : settled o = .next t) :
    ∃ u, o = .next u ∧ t = u.settle := by
  cases o with
  | next u => cases h; exact ⟨u, rfl, rfl⟩
  | fault r => cases h
  | refused r => cases h

/-! ### A command -/

theorem execute_legal {w : Word} {i : Instr} (h : decode w = .ok i) (s : State) : execute w s = exec i s := by
  simp [execute, h]

theorem execute_illegal {w : Word} {r : Reject} (h : decode w = .error r) (s : State) :
    execute w s = .next (s.raise .illegalCommand) := by
  simp [execute, h]

theorem execTail_zero {n : Fin 16} (h : n.val = 0) (s : State) : execTail n s = .next s := by
  simp [execTail, h]

theorem execTail_some {n : Fin 16} (h0 : n.val ≠ 0) (h : n.val ≤ 12) (s : State) :
    execTail n s = .next (s.setAcc (final (s.tailOperand n.val))) := by
  unfold execTail
  rw [if_neg h0, if_pos (show n.val ≤ Config.tailMax from h)]

theorem execTail_long {n : Fin 16} (h : 12 < n.val) (s : State) :
    execTail n s = .next (s.raise .illegalCommand) := by
  unfold execTail
  rw [if_neg (by omega), if_neg (by simpa [Config.tailMax] using h)]

/-- The seven commands, each as the update it makes when it completes. -/
theorem exec_cases {i : Instr} {s t : State} (h : exec i s = .next t) :
    (i = .seed ∧ t = (s.setSeeds s.OP0 s.OP1).setAcc (seedRule s.OP0 s.OP1)) ∨
    (i = .reseed ∧ t = s.setAcc (seedRule s.S0 s.S1)) ∨
    (i = .load ∧ t = s.setAcc ⟨s.OP0, s.OP1, s.OP2⟩) ∨
    (i = .block ∧ t = s.setAcc s.blockOperand) ∨
    (∃ n : Fin 16, i = .tail n ∧ n.val = 0 ∧ t = s) ∨
    (∃ n : Fin 16, i = .tail n ∧ n.val ≠ 0 ∧ n.val ≤ 12 ∧ t = s.setAcc (final (s.tailOperand n.val))) ∨
    (∃ n : Fin 16, i = .tail n ∧ 12 < n.val ∧ t = s.raise .illegalCommand) ∨
    (i = .update ∧ s.reachesWindow s.updateAddrs = false ∧
      t = (s.setAcc (updateFn s.updateInput s.acc)).advance s.OP1.toNat) ∨
    (i = .digest ∧ s.reachesWindow (s.digestCells.map Prod.fst) = false ∧ t = s.storeBytes s.digestCells) := by
  cases i with
  | seed => cases h; exact .inl ⟨rfl, rfl⟩
  | reseed => cases h; exact .inr (.inl ⟨rfl, rfl⟩)
  | load => cases h; exact .inr (.inr (.inl ⟨rfl, rfl⟩))
  | block => cases h; exact .inr (.inr (.inr (.inl ⟨rfl, rfl⟩)))
  | tail n =>
    by_cases h0 : n.val = 0
    · cases (execTail_zero h0 s).symm.trans h
      exact .inr (.inr (.inr (.inr (.inl ⟨n, rfl, h0, rfl⟩))))
    · by_cases h12 : n.val ≤ 12
      · cases (execTail_some h0 h12 s).symm.trans h
        exact .inr (.inr (.inr (.inr (.inr (.inl ⟨n, rfl, h0, h12, rfl⟩)))))
      · cases (execTail_long (by omega) s).symm.trans h
        exact .inr (.inr (.inr (.inr (.inr (.inr (.inl ⟨n, rfl, by omega, rfl⟩))))))
  | update =>
    simp only [exec, execUpdate] at h
    split at h
    · cases h
    · cases h
      exact .inr (.inr (.inr (.inr (.inr (.inr (.inr (.inl ⟨rfl, Bool.eq_false_iff.mpr ‹_›, rfl⟩)))))))
  | digest =>
    simp only [exec, execDigest] at h
    split at h
    · cases h
    · cases h
      exact .inr (.inr (.inr (.inr (.inr (.inr (.inr (.inr ⟨rfl, Bool.eq_false_iff.mpr ‹_›, rfl⟩)))))))

/-! ### A run -/

@[simp] theorem run_zero (s : State) : run 0 s = .next s := rfl

/-- A run takes its first step. -/
theorem run_succ {k : Nat} {s t : State} (h : step s = .next t) : run (k + 1) s = run k t := by
  simp only [run, h]

/-- A run is Host/Core.lean's run of the machine. -/
theorem run_eq_core_run (k : Nat) (s : State) : run k s = Sys2Proof.core.run k s := by
  induction k generalizing s with
  | zero => rfl
  | succ k ih =>
    have hc : Host.Core.step Sys2Proof.core s = step s := rfl
    cases h : step s with
    | next t =>
      simp only [run, Host.Core.run, hc, h]
      exact ih t
    | fault r =>
      simp only [run, Host.Core.run, hc, h]
      rfl
    | refused r =>
      simp only [run, Host.Core.run, hc, h]
      rfl

end Sys2Proof.Machine
end

