-- ==== Sys2Proof/Tests/Slice0.lean ====
section
/-! SUPPORT. Tests with results from spec/95_test_vectors.md and the examples of the rules, and a witness for the hypotheses of every statement. -/

namespace Sys2Proof.Tests

open Sys2Proof Sys2Proof.Machine

/-- Whether an outcome is a next state with a property. -/
def nextHas (o : Host.Outcome State Fault Refusal) (p : State → Bool) : Bool :=
  match o with
  | .next t => p t
  | .fault _ => false
  | .refused _ => false

/-- The reset state with a triple and operands. -/
def st (t : Triple) (x0 x1 x2 : Word) : State :=
  { State.reset with A := t.a, B := t.b, C := t.c, OP0 := x0, OP1 := x1, OP2 := x2 }

/-- The triple of SEED_BASE, which is also the reset triple. -/
def K : Triple := ⟨0xdeadbeef, 0xdeadbeef, 0xdeadbeef⟩

/-- The reset state with events to come. -/
def withEvents (es : List Event) : State := { State.reset with pending := es }

/-! ### Well-formedness (30_encoding.md R84) -/

theorem test_wf_refuses_tail_13 : (Instr.tail 13).wf = false := by decide
theorem test_wf_refuses_tail_15 : (Instr.tail 15).wf = false := by decide
theorem test_wf_accepts_tail_12 : (Instr.tail 12).wf = true := by decide

/-! ### Decoding (30_encoding.md R91, 95_test_vectors.md V-ILL) -/

theorem test_decode_seed : decode 0b00000000000000000000000000000001 = .ok .seed := by decide
theorem test_decode_reseed : decode 0b00000000000000000000000000000010 = .ok .reseed := by decide
theorem test_decode_load : decode 0b00000000000000000000000000000011 = .ok .load := by decide
theorem test_decode_block : decode 0b00000000000000000000000000000100 = .ok .block := by decide
theorem test_decode_tail_9 : decode 0b00000000000000000000000010010101 = .ok (.tail 9) := by decide
theorem test_decode_tail_12 : decode 0b00000000000000000000000011000101 = .ok (.tail 12) := by decide
theorem test_decode_update : decode 0b00000000000000000000000000000110 = .ok .update := by decide
theorem test_decode_digest : decode 0b00000000000000000000000000000111 = .ok .digest := by decide

theorem test_decode_opc_0 : decode 0x00000000 = .error .reservedOpcode := by decide
theorem test_decode_opc_8 : decode 0x00000008 = .error .reservedOpcode := by decide
theorem test_decode_seed_n_1 : decode 0x00000011 = .error .countNotZero := by decide
theorem test_decode_digest_n_15 : decode 0x000000f7 = .error .countNotZero := by decide
theorem test_decode_tail_13 : decode 0x000000d5 = .error .tailTooLong := by decide
theorem test_decode_rsv_8 : decode 0x00000105 = .error .reservedBits := by decide
theorem test_decode_rsv_31 : decode 0x80000001 = .error .reservedBits := by decide

theorem test_table_word : decodeTableWord 32 0x000000C5 = some (.tail 12) := by decide
theorem test_table_word_illegal : decodeTableWord 32 0x000000D5 = none := by decide
theorem test_encode_tail_10 : encode (.tail 10) = 0x000000A5 := by decide

/-! ### The datapath (95_test_vectors.md V-ROT, V-MIX, V-FIN, V-SEED, V-UPD) -/

theorem test_rot_wraps : rot 0x80000001 4 = 0x00000018 := by decide
theorem test_rot_largest : rot 0x00000001 31 = 0x80000000 := by decide
theorem test_mix_row_7 : mix ⟨0x01234567, 0x89abcdef, 0xfedcba98⟩ = ⟨0xd1fc0b5a, 0x0384ec36, 0x01a5d2ca⟩ := by decide
theorem test_final_row_7 : final ⟨0x01234567, 0x89abcdef, 0xfedcba98⟩ = ⟨0x4763c99c, 0xecc56f68, 0xd530657b⟩ := by
  decide
theorem test_mixInv_row_7 : mixInv ⟨0xd1fc0b5a, 0x0384ec36, 0x01a5d2ca⟩ = ⟨0x01234567, 0x89abcdef, 0xfedcba98⟩ := by
  decide
theorem test_finalInv_row_7 : finalInv ⟨0x4763c99c, 0xecc56f68, 0xd530657b⟩ = ⟨0x01234567, 0x89abcdef, 0xfedcba98⟩ := by
  decide
theorem test_le32_four : le32 0x46 0x6f 0x75 0x72 = 0x72756f46 := by decide
theorem test_seedRule_row_5 : seedRule 0xffffffff 0xffffffff = ⟨0xdeadbeee, 0xdeadbeee, 0xdeadbeed⟩ := by decide
theorem test_tailAdd_abc : tailAdd ⟨0, 0, 0⟩ [0x61, 0x62, 0x63] = ⟨0x00636261, 0, 0⟩ := by decide
theorem test_updateFn_12 : updateFn [1, 2, 3, 4, 5, 6, 7, 8, 9, 10, 11, 12] K = ⟨0xe92154ca, 0x45ca9b84, 0x6980fa5e⟩ := by
  decide
theorem test_updateFn_25 :
    updateFn ([1, 2, 3, 4, 5, 6, 7, 8, 9, 10, 11, 12] ++ [13, 14, 15, 16, 17, 18, 19, 20, 21, 22, 23, 24] ++ [25]) K =
      ⟨0x083e2718, 0x197a0604, 0x174a2e22⟩ := by decide
theorem test_id64 : id64 0x17770551 0xce7226e6 = 0xce7226e617770551 := by decide

/-! ### Commands -/

/-- 41_seed_load.md R121, example. -/
theorem test_seed : nextHas (exec .seed (st K 30 0 0)) (fun t => t.S0 == 0x1e && t.S1 == 0 && t.acc == ⟨0xdeadbf0d, 0xdeadbf0d, 0xdeadbf0d⟩) = true := by
  decide
/-- 41_seed_load.md R121, corner case: C = A - 1. -/
theorem test_seed_wraps : nextHas (exec .seed (st K 0 0xffffffff 7)) (fun t => t.acc == ⟨0xdeadbeef, 0xdeadbeef, 0xdeadbeee⟩) = true := by
  decide
/-- 41_seed_load.md R122, example. -/
theorem test_reseed : nextHas (exec .reseed { st ⟨5, 6, 7⟩ 9 9 9 with S0 := 1, S1 := 2 }) (fun t => t.acc == ⟨0xdeadbef0, 0xdeadbef0, 0xdeadbef2⟩ && t.S0 == 1 && t.S1 == 2) = true := by
  decide
/-- 41_seed_load.md R123: the operands go to A, B, C in order, and the seeds stay. -/
theorem test_load : nextHas (exec .load { st K 1 2 3 with S0 := 4 }) (fun t => t.acc == ⟨1, 2, 3⟩ && t.S0 == 4) = true := by
  decide
/-- 95_test_vectors.md V-BLK row 1. -/
theorem test_block : nextHas (exec .block (st K 0x04030201 0x08070605 0x0c0b0a09)) (fun t => t.acc == ⟨0x262f18fe, 0x89dc6a16, 0x002fcd4c⟩) = true := by
  decide
/-- 95_test_vectors.md V-BLK row 5: the additions wrap. -/
theorem test_block_wraps : nextHas (exec .block (st ⟨1, 1, 1⟩ 0xffffffff 0xffffffff 0xffffffff)) (fun t => t.acc == ⟨0, 0, 0⟩) = true := by
  decide
/-- 95_test_vectors.md V-TAIL row 13: bytes at positions 5 and above are masked off. -/
theorem test_tail_5_masks : nextHas (exec (.tail 5) (st K 0x04030201 0xffffff05 0xffffffff)) (fun t => t.acc == ⟨0x192eee31, 0xe0dac7e7, 0xedfc8a06⟩) = true := by
  decide
/-- 95_test_vectors.md V-TAIL, n = 12. -/
theorem test_tail_12 : nextHas (exec (.tail 12) (st K 0x04030201 0x08070605 0x0c0b0a09)) (fun t => t.acc == ⟨0xe92154ca, 0x45ca9b84, 0x6980fa5e⟩) = true := by
  decide
/-- 95_test_vectors.md V-UPD row 21: "abc" across the top of memory. -/
theorem test_update_wraps :
    nextHas (exec .update { st K 0xfffffffe 3 0 with mem := [(0, 0x63), (0xfffffffe, 0x61), (0xffffffff, 0x62)] })
      (fun t => t.acc == ⟨0x178938e9, 0xaeae5fb8, 0xba71481e⟩ && t.OP1 == 3) = true := by
  decide
/-- 95_test_vectors.md section 1.1, S2: "a" from the 0xcafebaba triple. -/
theorem test_update_a :
    nextHas (exec .update { st ⟨0xcafebaba, 0xcafebaba, 0xcafebaba⟩ 0x40 1 0 with mem := [(0x40, 0x61)] })
      (fun t => t.acc == ⟨0x610ed340, 0xa5c5fe90, 0x704dedac⟩) = true := by
  decide
/-- 95_test_vectors.md V-DIG row 2: the reset C at 0xfffffffe wraps. -/
theorem test_digest_wraps :
    nextHas (exec .digest (st K 0xfffffffe 0 0))
      (fun t => t.mem == [(0, 0xbe), (1, 0xef), (0xfffffffe, 0xde), (0xffffffff, 0xad)] && t.acc == K) = true := by
  decide
/-- 95_test_vectors.md V-DIG row 3: zeros are written too. -/
theorem test_digest_zeros :
    nextHas (exec .digest { st ⟨1, 1, 0⟩ 0x10 0 0 with mem := [(0x10, 1), (0x13, 2), (0x14, 3)] })
      (fun t => t.mem == [(0x14, 3)]) = true := by
  decide
/-- 70_reset_and_hazards.md R229: an UPDATE whose last byte is the window's first is stuck. -/
theorem test_update_in_window : exec .update { st K 0xfff 2 0 with memWindow := some 0x1000 } = .fault .selfAccess := rfl
/-- 10_state.md R28: the window ends after offset 0xFC. -/
theorem test_digest_past_window : nextHas (exec .digest { st K 0x1100 0 0 with memWindow := some 0x1000 }) (fun t => t.byteAt 0x1100 == 0xde) = true := by
  decide

/-! ### The port, one step each (95_test_vectors.md V-PORT, V-ILL) -/

theorem test_read_info : nextHas (step (withEvents [.read 10])) (fun t => t.returned == [0x00000C04]) = true := by decide
theorem test_read_status : nextHas (step { withEvents [.read 9] with STATUS := 3 }) (fun t => t.returned == [3] && t.STATUS == 3) = true := by decide
theorem test_read_unmapped : nextHas (step (withEvents [.read 63])) (fun t => t.returned == [0] && t.STATUS == 0) = true := by decide
theorem test_write_op1 : nextHas (step (withEvents [.write 6 0x12345678])) (fun t => t.OP1 == 0x12345678 && t.STATUS == 0) = true := by decide
theorem test_write_a_is_discarded : nextHas (step (withEvents [.write 0 5])) (fun t => t.A == 0xdeadbeef && t.STATUS == 2) = true := by decide
theorem test_write_unmapped : nextHas (step (withEvents [.write 40 7])) (fun t => t.STATUS == 2) = true := by decide
theorem test_clear_ill_only : nextHas (step { withEvents [.write 9 1] with STATUS := 3 }) (fun t => t.STATUS == 2) = true := by decide
theorem test_clear_reserved_ignored : nextHas (step { withEvents [.write 9 0xfffffffc] with STATUS := 3 }) (fun t => t.STATUS == 3) = true := by decide
theorem test_illegal_word : nextHas (step (withEvents [.write 8 0x000000d5])) (fun t => t.STATUS == 1 && t.acc == K) = true := by decide
theorem test_cmd_write_runs : nextHas (step { withEvents [.write 8 0x00000005, .reset] with OP0 := 9 }) (fun t => t.acc == K && t.pending == [.reset]) = true := by decide
theorem test_reset_event : nextHas (step { st ⟨1, 2, 3⟩ 4 5 6 with S0 := 7, STATUS := 3, mem := [(8, 9)], pending := [.reset] }) (fun t => t == { State.reset with mem := [(8, 9)] }) = true := by decide
theorem test_reset_during_update : nextHas (step { st ⟨1, 2, 3⟩ 4 5 6 with pending := [.resetDuring 6] }) (fun t => t == State.reset) = true := by decide
theorem test_host_store : nextHas (step (withEvents [.store 0x40 0x61])) (fun t => t.mem == [(0x40, 0x61)]) = true := by decide
/-- A store that overlaps a LOAD is complete after it. -/
theorem test_race_lands : nextHas (step { withEvents [.write 8 3] with rivals := [(0x40, 0x61)] }) (fun t => t.mem == [(0x40, 0x61)] && t.rivals == []) = true := by decide

/-! ### Witnesses: each statement's hypotheses are met together -/

theorem witness_IllegalWord_reserved : (0x105 : Word).extractLsb' 8 24 ≠ 0 := by decide
theorem witness_IllegalWord_opcode : (0x00 : Word).toNat % 16 = 0 ∧ 8 ≤ (0x08 : Word).toNat % 16 ∧ 8 ≤ (0x0f : Word).toNat % 16 := by decide
theorem witness_IllegalWord_count : (0x11 : Word).toNat % 16 ≠ 5 ∧ (0x11 : Word).toNat / 16 % 16 ≠ 0 := by decide
theorem witness_IllegalWord_tail : (0xd5 : Word).toNat % 16 = 5 ∧ 13 ≤ (0xd5 : Word).toNat / 16 % 16 := by decide

theorem witness_StepRunsDecodedCommand_next :
    ∃ (s : State) (w : Word) (i : Instr) (rest : List Event) (t : State), s.pending = .write 8 w :: rest ∧ decode w = .ok i ∧ exec i { s with pending := rest } = .next t ∧ s.rivals = [] :=
  ⟨withEvents [.write 8 4], 4, .block, [], _, rfl, by decide, rfl, rfl⟩
theorem witness_StepRunsDecodedCommand_fault :
    ∃ (s : State) (w : Word) (i : Instr) (rest : List Event) (r : Fault), s.pending = .write 8 w :: rest ∧ decode w = .ok i ∧ exec i { s with pending := rest } = .fault r :=
  ⟨{ withEvents [.write 8 7] with memWindow := some 0 }, 7, .digest, [], .selfAccess, rfl, by decide, rfl⟩
theorem witness_PlacedCommandRunsNext : decodeTableWord 32 0x15 = some (.tail 1) ∧ State.reset.rivals = [] := by decide
theorem witness_IdleStepHoldsState : State.reset.pending = [] := rfl
theorem witness_PortReadReturnsRegister : ∀ i : PortIndex, (withEvents [.read i]).pending = .read i :: [] := fun _ => rfl
theorem witness_PortRead_boundaries : 11 ≤ (11 : PortIndex).toNat ∧ 11 ≤ (63 : PortIndex).toNat := by decide
theorem witness_PortWriteFollowsItsIndex : ∀ (i : PortIndex) (v : Word), (withEvents [.write i v]).pending = .write i v :: [] :=
  fun _ _ => rfl
theorem witness_PortWrite_boundaries :
    (0 : PortIndex).toNat ≤ 4 ∧ (4 : PortIndex).toNat ≤ 4 ∧ 10 ≤ (10 : PortIndex).toNat ∧ 10 ≤ (63 : PortIndex).toNat := by decide
theorem witness_StatusBits : (withEvents [.write 9 3]).pending = .write 9 3 :: [] := rfl
theorem witness_HostStoreIsVisible :
    (withEvents [.store 0x40 0x61]).mem.wf = true ∧ (withEvents [.store 0x40 0x61]).pending = .store 0x40 0x61 :: [] := by decide
theorem witness_OverlappingStoreIsRecorded : (withEvents [.race 0x40 0x61]).pending = .race 0x40 0x61 :: [] := rfl
theorem witness_OverlappingStoresLand : ({ State.reset with mem := [(1, 2)], rivals := [(1, 3), (1, 4)] } : State).mem.wf = true := by
  decide
theorem witness_ResetEvent : (withEvents [.reset]).pending = .reset :: [] := rfl
theorem witness_AbandonedCommand :
    (withEvents [.resetDuring 7]).mem.wf = true ∧ (withEvents [.resetDuring 7]).pending = .resetDuring 7 :: [] := by decide
theorem witness_SeedRule_injective : seedRule 1 2 = seedRule 1 2 := rfl
theorem witness_Rot_boundaries : 1 ≤ 1 ∧ 1 ≤ 31 ∧ 31 ≤ 31 := by decide
theorem witness_TailAddOperandForm :
    ([1, 2, 3, 4, 5] : List Byte).length ≤ 12 ∧
    (∀ j, j < 4 → j < 5 → (0x04030201 : Word).extractLsb' (8 * j) 8 = ([1, 2, 3, 4, 5] : List Byte).getD j 0) ∧
    (∀ j, j < 4 → 4 + j < 5 → (0xffffff05 : Word).extractLsb' (8 * j) 8 = ([1, 2, 3, 4, 5] : List Byte).getD (4 + j) 0) ∧
    (∀ j, j < 4 → 8 + j < 5 → (0xffffffff : Word).extractLsb' (8 * j) 8 = ([1, 2, 3, 4, 5] : List Byte).getD (8 + j) 0) := by
  decide
theorem witness_UpdateFn_long : 12 < ([1, 2, 3, 4, 5, 6, 7, 8, 9, 10, 11, 12, 13] : List Byte).length := by decide
theorem witness_UpdateFn_short :
    1 ≤ ([1] : List Byte).length ∧ ([1] : List Byte).length ≤ 12 ∧
    ([1, 2, 3, 4, 5, 6, 7, 8, 9, 10, 11, 12] : List Byte).length ≤ 12 := by decide
theorem witness_UpdateFnBlockCount : ([1] : List Byte) ≠ [] := by decide
theorem witness_TailAbsorbs_boundaries :
    (0 : Fin 16).val = 0 ∧ 1 ≤ (1 : Fin 16).val ∧ (12 : Fin 16).val ≤ 12 ∧ 13 ≤ (13 : Fin 16).val := by decide
theorem witness_TailIgnoresStaleBytes :
    (∀ j, j < 4 → j < (5 : Fin 16).val → (0x04030201 : Word).extractLsb' (8 * j) 8 = (st K 0x04030201 5 0).OP0.extractLsb' (8 * j) 8) ∧
    (∀ j, j < 4 → 4 + j < (5 : Fin 16).val → (0xffffff05 : Word).extractLsb' (8 * j) 8 = (st K 0x04030201 5 0).OP1.extractLsb' (8 * j) 8) ∧
    (∀ j, j < 4 → 8 + j < (5 : Fin 16).val → (0xffffffff : Word).extractLsb' (8 * j) 8 = (st K 0x04030201 5 0).OP2.extractLsb' (8 * j) 8) := by
  decide
theorem witness_ZeroOperands_block : State.reset.OP0 = 0 ∧ State.reset.OP1 = 0 ∧ State.reset.OP2 = 0 := by decide
theorem witness_ZeroOperands_tail :
    1 ≤ (5 : Fin 16).val ∧ (5 : Fin 16).val ≤ 12 ∧
    (∀ j, j < 4 → j < (5 : Fin 16).val → (st K 0 0xffffff00 9).OP0.extractLsb' (8 * j) 8 = 0) ∧
    (∀ j, j < 4 → 4 + j < (5 : Fin 16).val → (st K 0 0xffffff00 9).OP1.extractLsb' (8 * j) 8 = 0) ∧
    (∀ j, j < 4 → 8 + j < (5 : Fin 16).val → (st K 0 0xffffff00 9).OP2.extractLsb' (8 * j) 8 = 0) := by decide

/-- A state in which UPDATE and DIGEST run beside a mapped window, with another agent writing elsewhere. -/
def besideWindow : State :=
  { st K 0x1100 3 0 with memWindow := some 0x1000, rivals := [(0x1101, 7)], mem := [(0x1100, 0x61)] }

theorem witness_UpdateRunsOverItsInput :
    ∀ i : Nat, i < besideWindow.OP1.toNat → besideWindow.inWindow (besideWindow.OP0 + BitVec.ofNat 32 i) = false := by decide
theorem witness_UpdateRuns_quiet : besideWindow.quiet (besideWindow.OP0 + BitVec.ofNat 32 0) := by
  show ∀ r ∈ [((0x1101 : Word), (7 : Byte))], r.1 ≠ 0x1100 + BitVec.ofNat 32 0
  simp
theorem witness_UpdateOfNothing : (st K 0x1000 0 0).OP1 = 0 := rfl
theorem witness_UpdateReadsOnlyItsInput :
    (∀ i : Nat, i < (st K 0x40 2 0).OP1.toNat →
      Memory.read [(0x50, 9)] ((st K 0x40 2 0).OP0 + BitVec.ofNat 32 i).toNat = (st K 0x40 2 0).byteAt ((st K 0x40 2 0).OP0 + BitVec.ofNat 32 i)) ∧
    ∃ t, exec .update (st K 0x40 2 0) = .next t := ⟨by decide, _, rfl⟩
theorem witness_DigestWritesFourBytes :
    besideWindow.mem.wf = true ∧ ∀ k : Nat, k < 4 → besideWindow.inWindow (besideWindow.OP0 + BitVec.ofNat 32 k) = false := by decide
theorem witness_Stick_update :
    2 < (st K 0xffe 3 0).OP1.toNat ∧ ({ st K 0xffe 3 0 with memWindow := some 0x1000 } : State).inWindow (0xffe + BitVec.ofNat 32 2) = true := by
  decide
theorem witness_Stick_digest : ({ st K 0x10fc 0 0 with memWindow := some 0x1000 } : State).inWindow (0x10fc + BitVec.ofNat 32 3) = true := by
  decide
theorem witness_CanonicalMemory : Memory.wf [(1, 2), (0xffffffff, 3)] = true := by decide
theorem witness_StepKeepsMemoryCanonical : (withEvents [.write 8 7]).mem.wf = true ∧ ∃ t, step (withEvents [.write 8 7]) = .next t :=
  ⟨by decide, _, rfl⟩
theorem witness_SeedsChange : ∃ t, step { withEvents [.write 8 1] with OP0 := 1, OP1 := 2 } = .next t ∧ t.S0 ≠ 0 ∧ t.S1 ≠ 0 :=
  ⟨_, rfl, by decide, by decide⟩
theorem witness_AccumulatorChanges : ∃ t, step (withEvents [.write 8 4]) = .next t ∧ t.A ≠ State.reset.A := ⟨_, rfl, by decide⟩
theorem witness_OperandsChange_0 : ∃ t, step (withEvents [.write 5 1]) = .next t ∧ t.OP0 ≠ 0 := ⟨_, rfl, by decide⟩
theorem witness_OperandsChange_1 : ∃ t, step (withEvents [.write 6 1]) = .next t ∧ t.OP1 ≠ 0 := ⟨_, rfl, by decide⟩
theorem witness_OperandsChange_2 : ∃ t, step (withEvents [.write 7 1]) = .next t ∧ t.OP2 ≠ 0 := ⟨_, rfl, by decide⟩
theorem witness_Sticky_ill :
    ∃ t, step { withEvents [.write 9 1] with STATUS := 3 } = .next t ∧ ({ State.reset with STATUS := 3 } : State).ILL = true ∧ t.ILL = false :=
  ⟨_, rfl, by decide, by decide⟩
theorem witness_Sticky_badacc :
    ∃ t, step { withEvents [.write 9 2] with STATUS := 3 } = .next t ∧ ({ State.reset with STATUS := 3 } : State).BADACC = true ∧ t.BADACC = false :=
  ⟨_, rfl, by decide, by decide⟩
theorem witness_Cause_ill : ∃ t, step (withEvents [.write 8 0]) = .next t ∧ State.reset.ILL = false ∧ t.ILL = true :=
  ⟨_, rfl, by decide, by decide⟩
theorem witness_Cause_badacc : ∃ t, step (withEvents [.write 10 0]) = .next t ∧ State.reset.BADACC = false ∧ t.BADACC = true :=
  ⟨_, rfl, by decide, by decide⟩
theorem witness_MemoryChanges_digest : ∃ t, step (withEvents [.write 8 7]) = .next t ∧ t.byteAt 0 ≠ State.reset.byteAt 0 :=
  ⟨_, rfl, by decide⟩
theorem witness_MemoryChanges_store : ∃ t, step (withEvents [.store 9 1]) = .next t ∧ t.byteAt 9 ≠ State.reset.byteAt 9 :=
  ⟨_, rfl, by decide⟩
theorem witness_MemoryChanges_race :
    ∃ t, step { withEvents [.write 8 2] with rivals := [(9, 1)] } = .next t ∧ t.byteAt 9 ≠ State.reset.byteAt 9 := ⟨_, rfl, by decide⟩
theorem witness_WindowHidden : State.reset.windowHidden ∧ State.reset.mem.wf = true := ⟨rfl, rfl⟩
theorem witness_EarlierErrorStopsNoCommand : (Instr.seed).wf = true ∧ ∃ t, exec .seed State.reset = .next t := ⟨rfl, _, rfl⟩
theorem witness_Checksums : State.reset.windowHidden ∧ State.reset.rivals = [] := ⟨rfl, rfl⟩

end Sys2Proof.Tests
end

section
/-! PROOF. The state family (10_state.md): the register port, the window, and what changes each register. -/

namespace Sys2Proof

/-! ### Decoding, inverted -/

/-- With RSV zero, a word is its fields OPC and N put together (30_encoding.md R80). -/
theorem word_eq_of_fields {w : Word} (hr : rsvField w = 0) :
    w = BitVec.ofNat 32 (16 * (nField w).toNat + (opcField w).toNat) := by
  have h256 := (rsvField_eq_zero w).mp hr
  refine BitVec.eq_of_toNat_eq ?_
  rw [BitVec.toNat_ofNat, nField_toNat, opcField_toNat]
  omega

theorem withoutCount_eq_ok {w : Word} {i j : Instr} : withoutCount w j = .ok i ↔ nField w = 0 ∧ i = j := by
  unfold withoutCount
  split <;> simp_all [eq_comm]

theorem withCount_eq_ok {w : Word} {i : Instr} :
    withCount w = .ok i ↔ (nField w).toNat ≤ 12 ∧ i = .tail (nField w).toFin := by
  unfold withCount Config.tailMax
  split <;> simp_all [eq_comm]

/-- TAIL's word has OPC 5 and its count in N. -/
theorem encode_tail (n : Fin 16) : encode (.tail n) = BitVec.ofNat 32 (16 * n.val + 5) := by
  revert n
  decide

/-- A command without a count decodes from its own word only. -/
theorem withoutCount_encode {w : Word} {i j : Instr} {k : Nat} (hr : rsvField w = 0)
    (hk : (opcField w).toNat = k) (hj : j.wf = true ∧ encode j = BitVec.ofNat 32 k) (h : withoutCount w j = .ok i) :
    i.wf = true ∧ encode i = w := by
  obtain ⟨hn, rfl⟩ := withoutCount_eq_ok.mp h
  have hw := word_eq_of_fields hr
  rw [hn, hk] at hw
  exact ⟨hj.1, hj.2.trans (by simpa using hw.symm)⟩

/-- What decodes is well formed, and decodes from its own word (30_encoding.md R83, R87). -/
theorem wf_and_encode_of_decode {w : Word} {i : Instr} (h : decode w = .ok i) : i.wf = true ∧ encode i = w := by
  unfold decode at h
  split at h
  case isFalse => cases h
  case isTrue hr =>
    split at h
    case h_5 hk =>
      obtain ⟨hn, rfl⟩ := withCount_eq_ok.mp h
      refine ⟨(Instr.wf_tail _).mpr hn, ?_⟩
      have hw := word_eq_of_fields hr
      rw [hk] at hw
      exact (encode_tail _).trans hw.symm
    case h_8 => cases h
    all_goals exact withoutCount_encode hr ‹_› ⟨rfl, rfl⟩ h

end Sys2Proof

namespace Sys2Proof.Machine

/-! ### Port reads and writes, index by index (10_state.md R29, R30) -/

/-- Every unmapped index reads as 0. -/
theorem State.rd_unmapped (s : State) {i : PortIndex} (hi : 11 ≤ i.toNat) : s.rd i = 0 := by
  unfold State.rd
  split
  case h_12 => rfl
  all_goals omega

/-- States with equal operand registers read alike at the operands' indices. -/
theorem State.rd_operand_congr {s t : State} {k : PortIndex} (hk : k = 5 ∨ k = 6 ∨ k = 7) (h0 : t.OP0 = s.OP0)
    (h1 : t.OP1 = s.OP1) (h2 : t.OP2 = s.OP2) : t.rd k = s.rd k := by
  obtain rfl | rfl | rfl := hk
  · exact h0
  · exact h1
  · exact h2

theorem State.writeReg_five (s : State) (v : Word) : s.writeReg 5 v = { s with OP0 := v } := rfl
theorem State.writeReg_six (s : State) (v : Word) : s.writeReg 6 v = { s with OP1 := v } := rfl
theorem State.writeReg_seven (s : State) (v : Word) : s.writeReg 7 v = { s with OP2 := v } := rfl
theorem State.writeReg_nine (s : State) (v : Word) :
    s.writeReg 9 v = { s with STATUS := statusClear v s.STATUS } := rfl

/-- A write to a read-only or unmapped index raises BadAccess. -/
theorem State.writeReg_unwritable (s : State) {i : PortIndex} (hi : i.toNat ≤ 4 ∨ 10 ≤ i.toNat) (v : Word) :
    s.writeReg i v = s.raise .badAccess := by
  unfold State.writeReg
  split
  case h_5 => rfl
  all_goals omega

/-- The indices other than CMD: an operand's, STATUS's, or one that is not writable. -/
theorem portIndex_cases {i : PortIndex} (h : i ≠ cmdIndex) :
    (i = 5 ∨ i = 6 ∨ i = 7) ∨ i = 9 ∨ i.toNat ≤ 4 ∨ 10 ≤ i.toNat := by
  unfold cmdIndex at h
  bv_omega

/-- A write of v to STATUS in the words of 10_state.md R26: STATUS[1:0] & ~v[1:0]. -/
theorem statusClear_eq (v : Word) (st : BitVec 2) : statusClear v st = st &&& ~~~(v.setWidth 2) := by
  rw [statusClear, BitVec.setWidth_eq_extractLsb' (by decide)]

/-- Recording a cause clears no bit. -/
theorem statusSet_getLsbD_of_set (c : Cause) {st : BitVec 2} {j : Nat} (h : st.getLsbD j = true) :
    (statusSet c st).getLsbD j = true := by
  simp [statusSet, h]

/-- A port write to an index other than CMD, read back at an operand's index. -/
theorem State.writeReg_rd_operand (s : State) {i k : PortIndex} (hi : i ≠ cmdIndex) (hk : k = 5 ∨ k = 6 ∨ k = 7)
    (v : Word) : (s.writeReg i v).rd k = if i = k then v else s.rd k := by
  obtain (rfl | rfl | rfl) | rfl | hro := portIndex_cases hi
  case inr.inr =>
    have hik : i ≠ k := by bv_omega
    rw [s.writeReg_unwritable hro v, if_neg hik]
    exact State.rd_operand_congr hk rfl rfl rfl
  all_goals obtain rfl | rfl | rfl := hk <;> rfl

/-- A port write that clears a bit of STATUS writes 1 to that bit of STATUS (10_state.md R26). -/
theorem State.writeReg_clears_statusBit {s : State} {i : PortIndex} {v : Word} {j : Nat} (hi : i ≠ cmdIndex) (hj : j < 2)
    (hs : s.STATUS.getLsbD j = true) (ht : (s.writeReg i v).STATUS.getLsbD j = false) :
    i = 9 ∧ v.getLsbD j = true := by
  obtain (rfl | rfl | rfl) | rfl | hro := portIndex_cases hi
  case inr.inl =>
    have hbit := (statusClear_getLsbD v s.STATUS hj).symm.trans ht
    exact ⟨rfl, by simpa [hs] using hbit⟩
  case inr.inr =>
    have hset := statusSet_getLsbD_of_set .badAccess hs
    rw [s.writeReg_unwritable hro v, State.raise_STATUS, hset] at ht
    cases ht
  all_goals cases hs.symm.trans ht

/-! ### What a step does to the block's registers (10_state.md R20) -/

/-- The block's part of a state: its registers, with everything outside the block as after reset. Two states have
the same registers when these parts are equal. -/
def State.registers (s : State) : State :=
  { State.reset with
    A := s.A, B := s.B, C := s.C, S0 := s.S0, S1 := s.S1
    OP0 := s.OP0, OP1 := s.OP1, OP2 := s.OP2, STATUS := s.STATUS }

@[simp] theorem State.storeBytes_registers (s : State) (cells : List (Word × Byte)) :
    (s.storeBytes cells).registers = s.registers := by
  obtain ⟨m, r, n, h⟩ := s.storeBytes_frame cells
  rw [h]
  rfl

/-- A reset, with or without a command running. -/
def Event.isReset (e : Event) : Prop := e = .reset ∨ ∃ w, e = .resetDuring w

/-- Every way event e, taken in s, can leave the block's registers: as those of r. -/
inductive RegisterEffect (s r : State) : Event → Prop
  /-- A port read, a store of the host or of another agent, a command that writes no register. -/
  | kept {e : Event} (h : r = s.registers) : RegisterEffect s r e
  /-- A reset, whatever it interrupts. -/
  | reset {e : Event} (he : e.isReset) (h : r = State.reset.registers) : RegisterEffect s r e
  /-- A port write to an index other than CMD. -/
  | written {i : PortIndex} {v : Word} (hi : i ≠ cmdIndex) (h : r = (s.writeReg i v).registers) :
      RegisterEffect s r (.write i v)
  /-- SEED, which installs the pair it seeds with. -/
  | seeded (h : r = ((s.setSeeds s.OP0 s.OP1).setAcc (seedRule s.OP0 s.OP1)).registers) :
      RegisterEffect s r (.write cmdIndex (encode .seed))
  /-- A command that installs a triple and no seeds. -/
  | installed {w : Word} {i : Instr} {x : Triple} (hw : decode w = .ok i) (hi : i ≠ .digest)
      (h : r = (s.setAcc x).registers) : RegisterEffect s r (.write cmdIndex w)
  /-- A word that is no command. -/
  | illegal {w : Word} (hw : ∀ i, decode w ≠ .ok i) (h : r = (s.raise .illegalCommand).registers) :
      RegisterEffect s r (.write cmdIndex w)

/-- What execute(w) does to the registers. -/
theorem execute_registerEffect {w : Word} {s t : State} (h : execute w s = .next t) :
    RegisterEffect s t.registers (.write cmdIndex w) := by
  cases hw : decode w with
  | error r =>
    cases (execute_illegal hw s).symm.trans h
    exact .illegal (by simp [hw]) rfl
  | ok i =>
    rw [execute_legal hw] at h
    obtain ⟨hwf, henc⟩ := wf_and_encode_of_decode hw
    obtain ⟨rfl, rfl⟩ | ⟨rfl, rfl⟩ | ⟨rfl, rfl⟩ | ⟨rfl, rfl⟩ | ⟨n, rfl, -, rfl⟩ | ⟨n, rfl, -, -, rfl⟩ |
      ⟨n, rfl, hn, -⟩ | ⟨rfl, -, rfl⟩ | ⟨rfl, -, rfl⟩ := exec_cases h
    case inl => exact henc ▸ .seeded rfl
    · exact .installed hw nofun rfl
    · exact .installed hw nofun rfl
    · exact .installed hw nofun rfl
    · exact .kept rfl
    · exact .installed hw nofun rfl
    · exact absurd ((Instr.wf_tail n).mp hwf) (by omega)
    · exact .installed hw nofun rfl
    · exact .kept (s.storeBytes_registers _)

/-- What one event does to the registers. -/
theorem perform_registerEffect {e : Event} {s t : State} (h : perform e s = .next t) :
    RegisterEffect s t.registers e := by
  cases e with
  | read i => cases h; exact .kept rfl
  | write i v =>
    by_cases hi : i = cmdIndex
    · subst hi
      rw [perform_write, portWrite_cmd] at h
      obtain ⟨u, hu, rfl⟩ := settled_cases h
      exact execute_registerEffect (t := u) hu
    · cases (portWrite_reg hi v s).symm.trans h
      exact .written hi rfl
  | reset => cases h; exact .reset (.inl rfl) rfl
  | resetDuring w => cases h; exact .reset (.inr ⟨w, rfl⟩) rfl
  | store a b => cases h; exact .kept rfl
  | race a b => cases h; exact .kept rfl

/-- What a step does to the registers. -/
theorem step_registerEffect {s t : State} (h : step s = .next t) :
    t.registers = s.registers ∨
      ∃ e rest, s.pending = e :: rest ∧ RegisterEffect (s.take rest) t.registers e := by
  obtain ⟨-, rfl⟩ | ⟨e, rest, hp, he⟩ := step_cases h
  · exact .inl rfl
  · exact .inr ⟨e, rest, hp, perform_registerEffect he⟩

/-! ### The register port -/

/-- Settles O8: the value is rd of the index. -/
theorem portReadReturnsRegister : Obligations.PortReadReturnsRegister := by
  intro s i rest hp
  refine ⟨(s.take rest).rd i, step_pending hp, ?_, ?_, ?_, ?_, ?_, ?_, ?_, ?_, ?_, ?_, ?_,
    (s.take rest).rd_unmapped⟩ <;> rintro rfl <;> rfl

/-- Settles O9: the clauses of wr, one by one. -/
theorem portWriteFollowsItsIndex : Obligations.PortWriteFollowsItsIndex := by
  intro s i v rest hp
  rw [step_pending hp, perform_write]
  refine ⟨?_, ?_, ?_, ?_, ?_, fun hi => ?_⟩
  · rintro rfl
    rw [portWrite_reg (by decide), State.writeReg_five]
    rfl
  · rintro rfl
    rw [portWrite_reg (by decide), State.writeReg_six]
    rfl
  · rintro rfl
    rw [portWrite_reg (by decide), State.writeReg_seven]
    rfl
  · rintro rfl
    exact portWrite_cmd v _
  · rintro rfl
    rw [portWrite_reg (by decide), State.writeReg_nine, statusClear_eq]
    rfl
  · have hne : i ≠ cmdIndex := by unfold cmdIndex; bv_omega
    rw [portWrite_reg hne, State.writeReg_unwritable _ hi]
    rfl

/-- Settles O10: statusClear, bit by bit. -/
theorem statusBitsAreWriteOneToClear : Obligations.StatusBitsAreWriteOneToClear := by
  intro s v rest hp
  refine ⟨statusClear v s.STATUS, ?_, statusClear_getLsbD v _ (by decide), statusClear_getLsbD v _ (by decide)⟩
  rw [step_pending hp, perform_write, portWrite_reg (by decide), State.writeReg_nine]
  rfl

/-- Settles O15: every value is a constant of State.reset. -/
theorem resetStateHoldsSpecValues : Obligations.ResetStateHoldsSpecValues :=
  ⟨rfl, rfl, rfl, rfl, rfl, rfl, rfl, rfl, rfl, rfl, State.applyReset_mem⟩

/-! ### The register window -/

/-- Settles O42: the offset of an address in the window is its distance from the base. -/
theorem windowIsItsBytes : Obligations.WindowIsItsBytes := by
  intro s a
  cases hw : s.memWindow with
  | none => simp [State.inWindow_hidden hw]
  | some base =>
    rw [State.inWindow_mapped hw]
    constructor
    · intro h
      exact ⟨base, (a - base).toNat, rfl, h, by bv_omega⟩
    · rintro ⟨b, j, hb, hj, rfl⟩
      cases hb
      bv_omega

/-! ### What changes a register -/

/-- Settles O46: of the register effects, only SEED's and reset's reach the seeds. -/
theorem seedsChangeOnlyBySeedOrReset : Obligations.SeedsChangeOnlyBySeedOrReset := by
  intro s t h hne
  have keeps {r : State} (hr : t.registers = r.registers) (h0 : r.S0 = s.S0) (h1 : r.S1 = s.S1) : False :=
    hne.elim (· ((congrArg State.S0 hr).trans h0)) (· ((congrArg State.S1 hr).trans h1))
  obtain hk | ⟨e, rest, hp, he⟩ := step_registerEffect h
  · exact (keeps hk rfl rfl).elim
  · refine ⟨e, rest, hp, ?_⟩
    cases he with
    | kept hr => exact (keeps hr rfl rfl).elim
    | reset he _ => exact .inr he
    | @written i v _ hr =>
      obtain ⟨x0, x1, x2, st, hw⟩ := (s.take rest).writeReg_frame i v
      exact (keeps hr (by rw [hw]; rfl) (by rw [hw]; rfl)).elim
    | seeded _ => exact .inl rfl
    | installed _ _ hr => exact (keeps hr rfl rfl).elim
    | illegal _ hr => exact (keeps hr rfl rfl).elim

/-- Settles O47: a command that changes the triple is one that decodes and is not DIGEST. -/
theorem accumulatorChangesOnlyByCommands : Obligations.AccumulatorChangesOnlyByCommands := by
  intro s t h hne
  have keeps {r : State} (hr : t.registers = r.registers) (hacc : r.acc = s.acc) : False := by
    have hts : t.acc = s.acc := (congrArg State.acc hr).trans hacc
    obtain hA | hB | hC := hne
    · exact hA (congrArg Triple.a hts)
    · exact hB (congrArg Triple.b hts)
    · exact hC (congrArg Triple.c hts)
  obtain hk | ⟨e, rest, hp, he⟩ := step_registerEffect h
  · exact (keeps hk rfl).elim
  · refine ⟨e, rest, hp, ?_⟩
    cases he with
    | kept hr => exact (keeps hr rfl).elim
    | reset he _ => exact he.imp_right .inl
    | @written i v _ hr =>
      obtain ⟨x0, x1, x2, st, hw⟩ := (s.take rest).writeReg_frame i v
      exact (keeps hr (by rw [hw]; rfl)).elim
    | seeded _ => exact .inr (.inr ⟨_, .seed, rfl, rfl, nofun⟩)
    | installed hw hi _ => exact .inr (.inr ⟨_, _, rfl, hw, hi⟩)
    | illegal _ hr => exact (keeps hr rfl).elim

/-- An operand register, read at its index k, changes only by a port write of the new value to k, or by reset. -/
theorem step_operand_changed {s t : State} {k : PortIndex} (hk : k = 5 ∨ k = 6 ∨ k = 7) (h : step s = .next t)
    (hne : t.rd k ≠ s.rd k) : ∃ e rest, s.pending = e :: rest ∧ (e = .write k (t.rd k) ∨ e.isReset) := by
  have keeps {r : State} (hr : t.registers = r.registers) (hrd : r.rd k = s.rd k) : False :=
    hne ((congrArg (State.rd · k) hr).trans hrd)
  obtain hk' | ⟨e, rest, hp, he⟩ := step_registerEffect h
  · exact (keeps hk' rfl).elim
  · refine ⟨e, rest, hp, ?_⟩
    cases he with
    | kept hr => exact (keeps hr rfl).elim
    | reset he _ => exact .inr he
    | @written i v hi hr =>
      have hrd := (s.take rest).writeReg_rd_operand hi hk v
      by_cases hik : i = k
      · rw [if_pos hik] at hrd
        have hv : t.rd k = v := (congrArg (State.rd · k) hr).trans hrd
        exact .inl (by rw [hik, hv])
      · rw [if_neg hik] at hrd
        exact (keeps hr hrd).elim
    | seeded hr => exact (keeps hr (State.rd_operand_congr hk rfl rfl rfl)).elim
    | installed _ _ hr => exact (keeps hr (State.rd_operand_congr hk rfl rfl rfl)).elim
    | illegal _ hr => exact (keeps hr (State.rd_operand_congr hk rfl rfl rfl)).elim

/-- Settles O48: each operand register is what its index reads. -/
theorem operandsChangeOnlyByPortWrite : Obligations.OperandsChangeOnlyByPortWrite := by
  intro s t h
  exact ⟨step_operand_changed (.inl rfl) h, step_operand_changed (.inr (.inl rfl)) h,
    step_operand_changed (.inr (.inr rfl)) h⟩

/-- A set STATUS bit is cleared only by a port write of 1 to it, or by reset. -/
theorem step_statusBit_cleared {s t : State} {j : Nat} (hj : j < 2) (h : step s = .next t)
    (hs : s.STATUS.getLsbD j = true) (ht : t.STATUS.getLsbD j = false) :
    ∃ e rest, s.pending = e :: rest ∧ ((∃ v : Word, e = .write 9 v ∧ v.getLsbD j = true) ∨ e.isReset) := by
  have keeps {r : State} (hr : t.registers = r.registers) (hset : r.STATUS.getLsbD j = true) : False := by
    have hST : t.registers.STATUS = r.registers.STATUS := congrArg State.STATUS hr
    exact absurd (hset.symm.trans ((congrArg (·.getLsbD j) hST).symm.trans ht)) (by decide)
  obtain hk | ⟨e, rest, hp, he⟩ := step_registerEffect h
  · exact (keeps hk hs).elim
  · refine ⟨e, rest, hp, ?_⟩
    cases he with
    | kept hr => exact (keeps hr hs).elim
    | reset he _ => exact .inr he
    | @written i v hi hr =>
      have hST : t.registers.STATUS = ((s.take rest).writeReg i v).registers.STATUS := congrArg State.STATUS hr
      have hclear : ((s.take rest).writeReg i v).STATUS.getLsbD j = false :=
        (congrArg (·.getLsbD j) hST).symm.trans ht
      obtain ⟨rfl, hv⟩ := State.writeReg_clears_statusBit (s := s.take rest) hi hj hs hclear
      exact .inl ⟨v, rfl, hv⟩
    | seeded hr => exact (keeps hr hs).elim
    | installed _ _ hr => exact (keeps hr hs).elim
    | illegal _ hr => exact (keeps hr (statusSet_getLsbD_of_set .illegalCommand hs)).elim

/-- Settles O49: the two bits of STATUS are its bits 0 and 1. -/
theorem errorBitsAreSticky : Obligations.ErrorBitsAreSticky := by
  intro s t h
  exact ⟨step_statusBit_cleared (by decide) h, step_statusBit_cleared (by decide) h⟩

end Sys2Proof.Machine
end

section
/-! PROOF. The memory family (20_memory.md): what each event stores, the canonical form, UPDATE's reads, a placed command. -/

namespace Sys2Proof.Machine

/-! ### A sequence of byte stores -/

/-- Memory m' is m after some sequence of byte stores, each to an address of P. -/
def Memory.StoredWithin (P : Word → Prop) (m m' : Memory) : Prop :=
  ∃ cells : List (Word × Byte), (∀ c ∈ cells, P c.1) ∧ m' = cells.foldl (fun m r => m.write r.1.toNat r.2) m

theorem Memory.StoredWithin.refl {P : Word → Prop} (m : Memory) : Memory.StoredWithin P m m :=
  ⟨[], by simp, rfl⟩

theorem Memory.StoredWithin.write {P : Word → Prop} (m : Memory) {a : Word} (ha : P a) (b : Byte) :
    Memory.StoredWithin P m (m.write a.toNat b) :=
  ⟨[(a, b)], by simpa using ha, rfl⟩

theorem Memory.StoredWithin.trans {P : Word → Prop} {m₁ m₂ m₃ : Memory} (h₁ : Memory.StoredWithin P m₁ m₂)
    (h₂ : Memory.StoredWithin P m₂ m₃) : Memory.StoredWithin P m₁ m₃ := by
  obtain ⟨cells₁, hP₁, rfl⟩ := h₁
  obtain ⟨cells₂, hP₂, rfl⟩ := h₂
  exact ⟨cells₁ ++ cells₂, fun c hc => (List.mem_append.mp hc).elim (hP₁ c) (hP₂ c), List.foldl_append.symm⟩

/-- Stores keep the canonical form. -/
theorem Memory.StoredWithin.wf {P : Word → Prop} {m m' : Memory} (h : Memory.StoredWithin P m m')
    (hm : m.wf = true) : m'.wf = true := by
  obtain ⟨cells, -, rfl⟩ := h
  exact Memory.foldl_write_wf cells hm

/-- Stores leave a byte that none of them is to. -/
theorem Memory.StoredWithin.read_eq {P : Word → Prop} {m m' : Memory} (h : Memory.StoredWithin P m m') {a : Word}
    (ha : ¬ P a) : m'.read a.toNat = m.read a.toNat := by
  obtain ⟨cells, hP, rfl⟩ := h
  induction cells generalizing m with
  | nil => rfl
  | cons c cells ih =>
    obtain ⟨hc, hcells⟩ := List.forall_mem_cons.mp hP
    have hne : a.toNat ≠ c.1.toNat := fun e => ha (BitVec.eq_of_toNat_eq e ▸ hc)
    exact (ih hcells).trans (Memory.read_write_ne m _ c.2 hne)

/-- After a sequence of stores an address reads as the last byte stored there. -/
theorem Memory.read_foldl_write (cells : List (Word × Byte)) {m : Memory} (hm : m.wf = true) (a : Word) :
    (cells.foldl (fun m r => m.write r.1.toNat r.2) m).read a.toNat =
      (((cells.filter (fun r => r.1 == a)).map Prod.snd).getLast?).getD (m.read a.toNat) := by
  induction cells generalizing m with
  | nil => rfl
  | cons c cells ih =>
    obtain ⟨x, y⟩ := c
    rw [List.foldl_cons, ih (Memory.write_wf hm x y)]
    by_cases hx : x = a
    · subst hx
      simp [Memory.read_write_self hm, List.getLast?_cons]
    · have hne : a.toNat ≠ x.toNat := fun e => hx (BitVec.eq_of_toNat_eq e).symm
      simp [hx, Memory.read_write_ne m _ y hne]

/-! ### What each operation stores -/

/-- A store can end the stores of other agents in progress, and begins none. -/
theorem State.storeByte_rivals_subset (s : State) (a : Word) (b : Byte) : (s.storeByte a b).rivals ⊆ s.rivals :=
  List.filter_subset_self _

theorem State.storeBytes_rivals_subset (cells : List (Word × Byte)) (s : State) :
    (s.storeBytes cells).rivals ⊆ s.rivals := by
  induction cells generalizing s with
  | nil => exact List.Subset.refl _
  | cons c cells ih => exact List.Subset.trans (ih _) (s.storeByte_rivals_subset c.1 c.2)

theorem State.storeSome_rivals_subset (cells : List (Word × Byte)) (s : State) :
    (s.storeSome cells).rivals ⊆ s.rivals := by
  induction cells generalizing s with
  | nil => exact List.Subset.refl _
  | cons c cells ih =>
    simp only [State.storeSome]
    split
    · exact List.Subset.trans (ih _) ((s.advance 1).storeByte_rivals_subset c.1 c.2)
    · exact ih (s.advance 1)

theorem State.storeBytes_storedWithin {P : Word → Prop} {cells : List (Word × Byte)} (hP : ∀ c ∈ cells, P c.1)
    (s : State) : Memory.StoredWithin P s.mem (s.storeBytes cells).mem := by
  induction cells generalizing s with
  | nil => exact .refl _
  | cons c cells ih =>
    obtain ⟨hc, hcells⟩ := List.forall_mem_cons.mp hP
    exact (Memory.StoredWithin.write s.mem hc _).trans (ih hcells (s.storeByte c.1 c.2))

theorem State.storeSome_storedWithin {P : Word → Prop} {cells : List (Word × Byte)} (hP : ∀ c ∈ cells, P c.1)
    (s : State) : Memory.StoredWithin P s.mem (s.storeSome cells).mem := by
  induction cells generalizing s with
  | nil => exact .refl _
  | cons c cells ih =>
    obtain ⟨hc, hcells⟩ := List.forall_mem_cons.mp hP
    simp only [State.storeSome]
    split
    · exact (Memory.StoredWithin.write s.mem hc _).trans (ih hcells ((s.advance 1).storeByte c.1 c.2))
    · exact ih hcells (s.advance 1)

theorem State.settle_storedWithin {P : Word → Prop} {s : State} (hP : ∀ r ∈ s.rivals, P r.1) :
    Memory.StoredWithin P s.mem s.settle.mem :=
  ⟨s.rivals, hP, rfl⟩

/-- DIGEST's addresses are the four from OP0 on (43_update_digest.md R161). -/
theorem State.digestCells_addr {s : State} {c : Word × Byte} (hc : c ∈ s.digestCells) :
    ∃ k < 4, c.1 = s.OP0 + BitVec.ofNat 32 k := by
  obtain ⟨k, hk, rfl⟩ := List.mem_map.mp hc
  exact ⟨k, List.mem_range.mp hk, rfl⟩

/-- DIGEST is the only command that stores (20_memory.md R59). -/
theorem exec_memory {i : Instr} {s t : State} (h : exec i s = .next t) :
    (i = .digest ∧ t = s.storeBytes s.digestCells) ∨ (t.mem = s.mem ∧ t.rivals = s.rivals) := by
  obtain ⟨rfl, rfl⟩ | ⟨rfl, rfl⟩ | ⟨rfl, rfl⟩ | ⟨rfl, rfl⟩ | ⟨n, rfl, -, rfl⟩ | ⟨n, rfl, -, -, rfl⟩ |
    ⟨n, rfl, -, rfl⟩ | ⟨rfl, -, rfl⟩ | ⟨rfl, -, rfl⟩ := exec_cases h
  on_goal 9 => exact .inl ⟨rfl, rfl⟩
  all_goals exact .inr ⟨rfl, rfl⟩

/-- A command adds no store of another agent to those in progress. -/
theorem exec_rivals_subset {i : Instr} {s t : State} (h : exec i s = .next t) : t.rivals ⊆ s.rivals := by
  obtain ⟨-, rfl⟩ | ⟨-, hr⟩ := exec_memory h
  · exact State.storeBytes_rivals_subset _ s
  · exact hr ▸ List.Subset.refl _

/-! ### What each event stores -/

/-- Event e, taken in s, may store to address a. -/
inductive StoresAt (s : State) (a : Word) : Event → Prop
  /-- DIGEST stores to its four addresses. -/
  | digest (ha : ∃ k < 4, a = s.OP0 + BitVec.ofNat 32 k) : StoresAt s a (.write cmdIndex (encode .digest))
  /-- So may a DIGEST that reset abandons (70_reset_and_hazards.md R221). -/
  | abandoned (ha : ∃ k < 4, a = s.OP0 + BitVec.ofNat 32 k) : StoresAt s a (.resetDuring (encode .digest))
  /-- The host stores by its own path. -/
  | host (b : Byte) : StoresAt s a (.store a b)
  /-- A store of another agent that overlaps a CMD write or an abandoned command is complete with it (log 6, log 9). -/
  | overlapping {e : Event} (he : ∃ w, e = .write cmdIndex w ∨ e = .resetDuring w) (ha : ∃ r ∈ s.rivals, r.1 = a) :
      StoresAt s a e

/-- What execute(w), with the overlapping stores complete, does to memory. -/
theorem execute_settle_storedWithin {w : Word} {s u : State} (h : execute w s = .next u) :
    Memory.StoredWithin (StoresAt s · (.write cmdIndex w)) s.mem u.settle.mem := by
  have lands (hsub : u.rivals ⊆ s.rivals) : ∀ r ∈ u.rivals, StoresAt s r.1 (.write cmdIndex w) :=
    fun r hr => .overlapping ⟨w, .inl rfl⟩ ⟨r, hsub hr, rfl⟩
  cases hw : decode w with
  | error r =>
    cases (execute_illegal hw s).symm.trans h
    exact State.settle_storedWithin (lands (List.Subset.refl _))
  | ok i =>
    rw [execute_legal hw] at h
    have hset := State.settle_storedWithin (P := (StoresAt s · (.write cmdIndex w))) (lands (exec_rivals_subset h))
    obtain ⟨rfl, rfl⟩ | ⟨hm, -⟩ := exec_memory h
    · obtain ⟨-, rfl⟩ := wf_and_encode_of_decode hw
      exact (State.storeBytes_storedWithin (fun c hc => .digest (State.digestCells_addr hc)) s).trans hset
    · exact hm ▸ hset

/-- What an abandoned command, with the overlapping stores complete, does to memory. -/
theorem abandon_settle_storedWithin (w : Word) (s : State) :
    Memory.StoredWithin (StoresAt s · (.resetDuring w)) s.mem (s.abandon w).settle.mem := by
  have lands {u : State} (hsub : u.rivals ⊆ s.rivals) : ∀ r ∈ u.rivals, StoresAt s r.1 (.resetDuring w) :=
    fun r hr => .overlapping ⟨w, .inr rfl⟩ ⟨r, hsub hr, rfl⟩
  unfold State.abandon
  split
  · next hw =>
    obtain ⟨-, rfl⟩ := wf_and_encode_of_decode hw
    exact (State.storeSome_storedWithin (fun c hc => .abandoned (State.digestCells_addr hc)) s).trans
      (State.settle_storedWithin (lands (State.storeSome_rivals_subset _ s)))
  · exact State.settle_storedWithin (lands (List.Subset.refl _))

/-- What one event does to memory. -/
theorem perform_storedWithin {e : Event} {s t : State} (h : perform e s = .next t) :
    Memory.StoredWithin (StoresAt s · e) s.mem t.mem := by
  cases e with
  | read i => cases h; exact .refl _
  | write i v =>
    by_cases hi : i = cmdIndex
    · subst hi
      rw [perform_write, portWrite_cmd] at h
      obtain ⟨u, hu, rfl⟩ := settled_cases h
      exact execute_settle_storedWithin hu
    · cases (portWrite_reg hi v s).symm.trans h
      obtain ⟨x0, x1, x2, st, hw⟩ := s.writeReg_frame i v
      exact hw ▸ .refl _
  | reset => cases h; exact .refl _
  | resetDuring w => cases h; exact abandon_settle_storedWithin w s
  | store a b => cases h; exact .write s.mem (.host b) b
  | race a b => cases h; exact .refl _

/-- What a step does to memory. -/
theorem step_storedWithin {s t : State} (h : step s = .next t) :
    Memory.StoredWithin (fun a => ∃ e rest, s.pending = e :: rest ∧ StoresAt (s.take rest) a e) s.mem t.mem := by
  obtain ⟨-, rfl⟩ | ⟨e, rest, hp, he⟩ := step_cases h
  · exact .refl _
  · obtain ⟨cells, hP, hm⟩ := perform_storedWithin he
    exact ⟨cells, fun c hc => ⟨e, rest, hp, hP c hc⟩, hm⟩

/-! ### The canonical form -/

/-- Settles O44: a step changes memory by byte stores, and each keeps the form. -/
theorem stepKeepsMemoryCanonical : Obligations.StepKeepsMemoryCanonical :=
  fun _ _ hs h => (step_storedWithin h).wf hs

/-- Settles O45: nothing is listed after reset. -/
theorem resetMemoryIsCanonical : Obligations.ResetMemoryIsCanonical := rfl

theorem Memory.wfFrom_cell {lo x : Nat} {y : Byte} {m : Memory} :
    Memory.wfFrom lo ((x, y) :: m) = true ↔
      lo ≤ x ∧ x < 2 ^ 32 ∧ y ≠ Config.unlistedByte ∧ Memory.wfFrom (x + 1) m = true := by
  simp [Memory.wfFrom, and_assoc]

/-- A canonical memory that reads a listed byte at x begins with a cell at x or below. -/
theorem Memory.exists_cell_le {lo x : Nat} {m : Memory} (hm : Memory.wfFrom lo m = true)
    (hx : m.read x ≠ Config.unlistedByte) : ∃ x' y' m', m = (x', y') :: m' ∧ x' ≤ x := by
  cases m with
  | nil => exact absurd rfl hx
  | cons c m =>
    obtain ⟨x', y'⟩ := c
    obtain ⟨-, hlt, hy, htail⟩ := Memory.wfFrom_cell.mp hm
    have hfrom : Memory.wfFrom x' ((x', y') :: m) = true := Memory.wfFrom_cell.mpr ⟨le_rfl, hlt, hy, htail⟩
    exact ⟨x', y', m, rfl, not_lt.mp fun hlt => hx (Memory.read_below hfrom hlt)⟩

/-- Canonical memories from lo on that read alike are equal. -/
theorem Memory.eq_of_read_eq {lo : Nat} {m m' : Memory} (hm : Memory.wfFrom lo m = true)
    (hm' : Memory.wfFrom lo m' = true) (h : ∀ a < 2 ^ 32, m.read a = m'.read a) : m = m' := by
  induction m generalizing lo m' with
  | nil =>
    cases m' with
    | nil => rfl
    | cons c' m' =>
      obtain ⟨-, hlt, hy, -⟩ := Memory.wfFrom_cell.mp hm'
      have hread := h c'.1 hlt
      rw [Memory.read_cell, if_pos rfl] at hread
      exact absurd hread.symm hy
  | cons c m ih =>
    obtain ⟨x, y⟩ := c
    obtain ⟨-, hlt, hy, htail⟩ := Memory.wfFrom_cell.mp hm
    have hread : m'.read x = y := by rw [← h x hlt, Memory.read_cell, if_pos rfl]
    obtain ⟨x', y', m', rfl, hle⟩ := Memory.exists_cell_le hm' (hread ▸ hy)
    obtain ⟨-, hlt', hy', htail'⟩ := Memory.wfFrom_cell.mp hm'
    have hread' : Memory.read ((x, y) :: m) x' = y' := by rw [h x' hlt', Memory.read_cell, if_pos rfl]
    obtain ⟨_, _, _, hcell, hge⟩ := Memory.exists_cell_le hm (hread' ▸ hy')
    cases hcell
    obtain rfl : x = x' := le_antisymm hge hle
    obtain rfl : y' = y := by simpa using hread
    congr 1
    refine ih htail htail' fun a ha => ?_
    obtain hax | hax := Nat.lt_or_ge a (x + 1)
    · rw [Memory.read_below htail hax, Memory.read_below htail' hax]
    · simpa [show x ≠ a by omega] using h a ha

/-- Settles O43: the first cells agree, and then the rest. -/
theorem canonicalMemoryIsDeterminedByItsBytes : Obligations.CanonicalMemoryIsDeterminedByItsBytes :=
  fun _ _ hm hm' h => Memory.eq_of_read_eq hm hm' fun a ha => h (BitVec.ofNatLT a ha)

/-! ### Stores of the host and of other agents -/

/-- Settles O11: the step is one setByte. -/
theorem hostStoreIsVisible : Obligations.HostStoreIsVisible := by
  intro s a b rest hs hp
  exact ⟨s.mem.write a.toNat b, step_pending hp, State.setByte_byteAt (s := s.take rest) hs a b⟩

/-- Settles O12: the event's own clause. -/
theorem overlappingStoreIsRecorded : Obligations.OverlappingStoreIsRecorded :=
  fun _ _ _ _ hp => step_pending hp

/-- Settles O13: settling performs the stores in progress one after another. -/
theorem overlappingStoresLandAfterCommand : Obligations.OverlappingStoresLandAfterCommand :=
  fun s hs => ⟨Memory.read_foldl_write s.rivals hs, rfl⟩

/-- Settles O51: a byte no store is to is left alone, and StoresAt names every store of a step. -/
theorem memoryChangesOnlyWhereStored : Obligations.MemoryChangesOnlyWhereStored := by
  intro s t a h hne
  obtain ⟨e, rest, hp, hst⟩ := not_not.mp fun hno => hne ((step_storedWithin h).read_eq hno)
  refine ⟨e, rest, hp, ?_⟩
  cases hst with
  | digest ha => exact .inl ⟨.inl rfl, ha⟩
  | abandoned ha => exact .inl ⟨.inr rfl, ha⟩
  | host b => exact .inr (.inl ⟨b, rfl⟩)
  | overlapping he ha => exact .inr (.inr ⟨he, ha⟩)

/-! ### What UPDATE reads -/

/-- UPDATE completes exactly when it stays out of the window, and then absorbs its input. -/
theorem exec_update_next {s t : State} :
    exec .update s = .next t ↔ s.reachesWindow s.updateAddrs = false ∧
      t = (s.setAcc (updateFn s.updateInput s.acc)).advance s.OP1.toNat := by
  constructor
  · intro h
    simpa using exec_cases h
  · rintro ⟨hw, rfl⟩
    simp [exec, execUpdate, hw]

/-- A load depends on memory at its own address only; where others are writing it does not depend on memory. -/
theorem State.loadByte_congr {s : State} {m : Memory} {a : Word} (h : m.read a.toNat = s.byteAt a) (n : Nat) :
    { s with mem := m }.loadByte n a = s.loadByte n a := by
  have hr : { s with mem := m }.rivalBytes a = s.rivalBytes a := rfl
  have hb : { s with mem := m }.byteAt a = s.byteAt a := h
  simp only [State.loadByte, hr, hb]

/-- UPDATE's input depends on memory at its input addresses only. -/
theorem State.updateInput_congr {s : State} {m : Memory}
    (h : ∀ i < s.OP1.toNat, m.read (s.OP0 + BitVec.ofNat 32 i).toNat = s.byteAt (s.OP0 + BitVec.ofNat 32 i)) :
    { s with mem := m }.updateInput = s.updateInput :=
  List.map_congr_left fun i hi => State.loadByte_congr (h i (List.mem_range.mp hi)) _

/-- Settles O39: the two runs have the same input, and UPDATE touches no memory. -/
theorem updateReadsOnlyItsInput : Obligations.UpdateReadsOnlyItsInput := by
  intro s t m hm h
  obtain ⟨hw, rfl⟩ := exec_update_next.mp h
  refine exec_update_next.mpr ⟨hw, ?_⟩
  rw [State.updateInput_congr hm]
  rfl

/-! ### A placed command -/

theorem decode_of_decodeTableWord {nbits w : Nat} {i : Instr} (h : decodeTableWord nbits w = some i) :
    decode (BitVec.ofNat 32 (w % 2 ^ nbits)) = .ok i := by
  unfold decodeTableWord at h
  split at h
  · cases hd : decode (BitVec.ofNat 32 (w % 2 ^ nbits)) with
    | ok j => rw [hd] at h; cases h; rfl
    | error r => rw [hd] at h; cases h
  · cases h

/-- Where no other agent is writing, nothing is left to complete after a command. -/
theorem settled_exec_calm {s : State} (hs : s.rivals = []) (i : Instr) : settled (exec i s) = exec i s := by
  cases h : exec i s with
  | next t =>
    have ht : t.rivals = [] := List.subset_nil.mp (hs ▸ exec_rivals_subset h)
    rw [settled_next, State.settle_calm ht]
  | fault r => rfl
  | refused r => rfl

/-- Settles O6: the word is the oldest event, it decodes to i, and no store overlaps it. -/
theorem placedCommandRunsNext : Obligations.PlacedCommandRunsNext := by
  intro s nbits w i hw hs
  calc step (s.withFetchWord nbits w)
      = perform (.write cmdIndex (BitVec.ofNat 32 (w % 2 ^ nbits))) s := step_pending rfl
    _ = settled (exec i s) := by
      rw [perform_write, portWrite_cmd, execute_legal (decode_of_decodeTableWord hw)]
    _ = exec i s := settled_exec_calm hs i

end Sys2Proof.Machine
end

section
/-! PROOF. The encoding family (30_encoding.md): decode and encode are inverse, the legal words, a CMD write. -/

namespace Sys2Proof.Machine

/-! ### Decoding and encoding -/

/-- A well-formed instruction decodes from its word. -/
theorem decode_encode {i : Instr} (hi : i.wf = true) : decode (encode i) = .ok i := by
  cases i with
  | tail n =>
    revert n
    decide
  | _ => rfl

/-- Settles O1: left to right the decoder is inverted, right to left the instruction's own word is decoded. -/
theorem decodeInvertsEncode : Obligations.DecodeInvertsEncode := by
  refine fun w i => ⟨wf_and_encode_of_decode, ?_⟩
  rintro ⟨hi, rfl⟩
  exact decode_encode hi

/-- Settles O3: each word is its command's encoding. -/
theorem sampleWordsDecode : Obligations.SampleWordsDecode := by
  have decodes {w : Word} {i : Instr} (hi : i.wf = true) (hw : encode i = w) : decode w = .ok i :=
    (decodeInvertsEncode w i).mpr ⟨hi, hw⟩
  exact ⟨decodes rfl rfl, decodes rfl rfl, decodes rfl rfl, decodes rfl rfl, decodes rfl rfl, decodes rfl rfl,
    decodes rfl rfl, decodes rfl rfl, decodes rfl rfl⟩

/-! ### The legal words (30_encoding.md R84, R91) -/

theorem encode_mem_legalWords {i : Instr} (hi : i.wf = true) : encode i ∈ legalWords := by
  cases i with
  | tail n =>
    revert n
    decide
  | _ => decide

theorem legal_of_mem_legalWords {w : Word} (hw : w ∈ legalWords) : legal w := by
  unfold legal
  fin_cases hw <;> decide

/-- A legal word is a TAIL's, or one of the six words with N = 0. -/
theorem exists_decode_of_legal {w : Word} (hw : legal w) : ∃ i, decode w = .ok i := by
  obtain ⟨hrsv, hlo, hhi, hn⟩ := hw
  split at hn
  case isTrue hopc =>
    have hfields := word_eq_of_fields ((rsvField_eq_zero w).mpr hrsv)
    rw [opcField_toNat, hopc] at hfields
    have hwf : (Instr.tail (nField w).toFin).wf = true := (Instr.wf_tail _).mpr ((nField_toNat w).trans_le hn)
    exact ⟨_, (decodeInvertsEncode w _).mpr ⟨hwf, (encode_tail _).trans hfields.symm⟩⟩
  case isFalse hopc =>
    obtain rfl | rfl | rfl | rfl | rfl | rfl : w = 1 ∨ w = 2 ∨ w = 3 ∨ w = 4 ∨ w = 6 ∨ w = 7 := by bv_omega
    all_goals exact ⟨_, rfl⟩

theorem exists_decode_iff_mem_legalWords (w : Word) : (∃ i, decode w = .ok i) ↔ w ∈ legalWords := by
  refine ⟨?_, fun hw => exists_decode_of_legal (legal_of_mem_legalWords hw)⟩
  rintro ⟨i, hi⟩
  obtain ⟨hwf, rfl⟩ := wf_and_encode_of_decode hi
  exact encode_mem_legalWords hwf

theorem exists_decode_iff_legal (w : Word) : (∃ i, decode w = .ok i) ↔ legal w :=
  ⟨fun h => legal_of_mem_legalWords ((exists_decode_iff_mem_legalWords w).mp h), exists_decode_of_legal⟩

/-- Settles O2: the first characterisation is `legal`, with RSV as a field of the word. -/
theorem legalWordsAreTheNineteen : Obligations.LegalWordsAreTheNineteen := by
  refine ⟨fun w => ?_, exists_decode_iff_mem_legalWords, rfl, by decide⟩
  exact (exists_decode_iff_legal w).trans (and_congr_left' (rsvField_eq_zero w).symm)

/-- A word that is not legal raises IllegalCommand (30_encoding.md R85). -/
theorem execute_of_not_legal {w : Word} (hw : ¬ legal w) (s : State) : execute w s = .next (s.raise .illegalCommand) := by
  cases hd : decode w with
  | ok i => exact absurd ((exists_decode_iff_legal w).mp ⟨i, hd⟩) hw
  | error r => exact execute_illegal hd s

/-- Settles O4: each of the five cases contradicts a clause of `legal`. -/
theorem illegalWordRaisesIllegalCommand : Obligations.IllegalWordRaisesIllegalCommand := by
  intro w s h
  refine execute_of_not_legal ?_ s
  rintro ⟨hrsv, hlo, hhi, hn⟩
  obtain hr | h0 | h8 | ⟨hopc, hn'⟩ | ⟨hopc, hn'⟩ := h
  · exact hr ((rsvField_eq_zero w).mpr hrsv)
  · omega
  · omega
  · rw [if_neg hopc] at hn
    exact hn' hn
  · rw [if_pos hopc] at hn
    omega

/-! ### A CMD write -/

/-- A step on a CMD write of a legal word runs its command and lets the overlapping stores complete. -/
theorem step_cmd_legal {s : State} {w : Word} {i : Instr} {rest : List Event}
    (hp : s.pending = .write cmdIndex w :: rest) (hw : decode w = .ok i) :
    step s = settled (exec i (s.take rest)) := by
  rw [step_pending hp, perform_write, portWrite_cmd, execute_legal hw]

/-- Settles O5: the three clauses are those of `settled`. -/
theorem stepRunsDecodedCommand : Obligations.StepRunsDecodedCommand := by
  intro s w i rest hp hw
  have hstep := step_cmd_legal hp hw
  refine ⟨fun t ht => ?_, fun r hr => ?_, fun hs => ?_⟩
  · exact hstep.trans (congrArg settled ht)
  · exact hstep.trans (congrArg settled hr)
  · exact hstep.trans (settled_exec_calm (s := s.take rest) hs i)

end Sys2Proof.Machine
end

section
/-! PROOF. The datapath family (40_datapath.md): the rotation, MIX and FINAL, little-endian words, TAILADD, UPDATEFN. -/

namespace Sys2Proof.Machine

/-! ### The rotation (40_datapath.md R100) -/

theorem rot_eq_rotateLeft (x : Word) {k : Nat} (hk : k ≤ 31) : rot x k = x.rotateLeft k := by
  rw [rot, BitVec.rotateLeft_def, Nat.mod_eq_of_lt (by omega)]

theorem rot_zero (k : Nat) : rot 0 k = 0 := by simp [rot]

theorem rot_allOnes {k : Nat} (hk : k ≤ 31) : rot 0xFFFFFFFF k = 0xFFFFFFFF := by
  rw [rot_eq_rotateLeft _ hk, show (0xFFFFFFFF : Word) = BitVec.allOnes 32 from rfl]
  refine BitVec.eq_of_getLsbD_eq fun i hi => ?_
  rw [BitVec.getLsbD_rotateLeft_of_le (by omega)]
  simp only [BitVec.getLsbD_allOnes]
  by_cases hik : i < k
  · rw [decide_eq_true hik, decide_eq_true hi, cond_true, decide_eq_true_eq]
    omega
  · rw [decide_eq_false hik, decide_eq_true hi, cond_false, Bool.true_and, decide_eq_true_eq]
    omega

/-- Settles O21: below 32 the rotation count is the one Lean reduces. -/
theorem rotIsLeftRotation : Obligations.RotIsLeftRotation := fun x k _ hk =>
  ⟨rfl, rot_eq_rotateLeft x hk, rot_zero k, rot_allOnes hk⟩

/-! ### MIX and FINAL line by line (40_datapath.md R101, R102, R109, R110)

Every line of MIX, and every line of FINAL, is one and the same bijection up to its rotation count and the part each
accumulator plays in it; a line hands the parts on to the next, so that both functions are a chain of lines. -/

/-- The accumulators take each other's parts. -/
def turn : Triple ≃ Triple where
  toFun t := ⟨t.b, t.c, t.a⟩
  invFun t := ⟨t.c, t.a, t.b⟩
  left_inv _ := rfl
  right_inv _ := rfl

/-- The first line of MIX (40_datapath.md R101), with rotation count k. -/
def mixFirstLine (k : Nat) : Triple ≃ Triple where
  toFun t := ⟨(t.a - t.c) ^^^ rot t.c k, t.b, t.c + t.b⟩
  invFun t := ⟨(t.a ^^^ rot (t.c - t.b) k) + (t.c - t.b), t.b, t.c - t.b⟩
  left_inv t := by simp
  right_inv t := by simp

/-- A line of MIX, which leaves the accumulators in the parts they play in the next line. -/
def mixLine (k : Nat) : Triple ≃ Triple := (mixFirstLine k).trans turn

/-- The first line of FINAL (40_datapath.md R102), with rotation count k. -/
def finalFirstLine (k : Nat) : Triple ≃ Triple where
  toFun t := ⟨t.a, t.b, (t.c ^^^ t.b) - rot t.b k⟩
  invFun t := ⟨t.a, t.b, (t.c + rot t.b k) ^^^ t.b⟩
  left_inv t := by simp
  right_inv t := by simp

/-- A line of FINAL, which leaves the accumulators in the parts they play in the next line. -/
def finalLine (k : Nat) : Triple ≃ Triple := (finalFirstLine k).trans turn

/-- MIX as a bijection: after six lines every accumulator is back in its place. -/
def mixEquiv : Triple ≃ Triple :=
  (mixLine 4).trans <| (mixLine 6).trans <| (mixLine 8).trans <| (mixLine 16).trans <| (mixLine 19).trans (mixLine 4)

/-- FINAL as a bijection: seven lines leave the accumulators turned once. -/
def finalEquiv : Triple ≃ Triple :=
  (finalLine 14).trans <| (finalLine 11).trans <| (finalLine 25).trans <| (finalLine 16).trans <|
    (finalLine 4).trans <| (finalLine 14).trans <| (finalLine 24).trans turn.symm

theorem coe_mixEquiv : ⇑mixEquiv = mix := rfl

theorem coe_mixEquiv_symm : ⇑mixEquiv.symm = mixInv := rfl

theorem coe_finalEquiv : ⇑finalEquiv = final := rfl

theorem coe_finalEquiv_symm : ⇑finalEquiv.symm = finalInv := rfl

/-- Settles O24: MIX is a chain of bijective lines, and MIXINV the chain of their inverses. -/
theorem mixIsInvertible : Obligations.MixIsInvertible := by
  unfold Obligations.MixIsInvertible
  rw [← coe_mixEquiv, ← coe_mixEquiv_symm]
  exact ⟨mixEquiv.bijective, mixEquiv.symm_apply_apply⟩

/-- Settles O25: FINAL is a chain of bijective lines, and FINALINV the chain of their inverses. -/
theorem finalIsInvertible : Obligations.FinalIsInvertible := by
  unfold Obligations.FinalIsInvertible
  rw [← coe_finalEquiv, ← coe_finalEquiv_symm]
  exact ⟨finalEquiv.bijective, finalEquiv.symm_apply_apply⟩

/-- Settles O22: the model's statements, with each rot read as a left rotation. -/
theorem mixIsTheSixLines : Obligations.MixIsTheSixLines := by
  intro a0 b0 c0
  simp only [mix, rot_eq_rotateLeft, Nat.reduceLeDiff]

/-- Settles O23: the model's statements, with each rot read as a left rotation. -/
theorem finalIsTheSevenLines : Obligations.FinalIsTheSevenLines := by
  intro a0 b0 c0
  simp only [final, rot_eq_rotateLeft, Nat.reduceLeDiff]

theorem mix_zero : mix ⟨0, 0, 0⟩ = ⟨0, 0, 0⟩ := by decide

theorem final_zero : final ⟨0, 0, 0⟩ = ⟨0, 0, 0⟩ := by decide

/-- Settles O26: the zero triple is a fixed point of a zero block, so of any number of them. -/
theorem zeroTripleIsFixed : Obligations.ZeroTripleIsFixed := by
  have hblock : blockFn ⟨0, 0, 0⟩ 0 0 0 = ⟨0, 0, 0⟩ := mix_zero
  exact ⟨mix_zero, final_zero, Function.iterate_fixed (f := (blockFn · 0 0 0)) hblock⟩

/-! ### Little-endian words (40_datapath.md R104) -/

theorem le32_eq_append (b0 b1 b2 b3 : Byte) : le32 b0 b1 b2 b3 = b3 ++ b2 ++ b1 ++ b0 := by
  have happend : b3 ++ b2 ++ b1 ++ b0 =
      b3.setWidth 32 <<< 24 ||| b2.setWidth 32 <<< 16 ||| b1.setWidth 32 <<< 8 ||| b0.setWidth 32 :=
    (BitVec.setWidth_eq _).symm.trans BitVec.setWidth_append_append_append_eq_shiftLeft_setWidth_or
  rw [happend, le32, BitVec.or_comm, BitVec.or_comm (_ ||| _) (b2.setWidth 32 <<< 16), BitVec.or_comm (b0.setWidth 32)]
  simp only [BitVec.or_assoc]

/-- Settles O27: the bytes of a word are disjoint, so joining them adds them up. -/
theorem inputWordsAreLittleEndian : Obligations.InputWordsAreLittleEndian := by
  intro b0 b1 b2 b3
  rw [le32_eq_append]
  simp only [BitVec.toNat_append, ← Nat.shiftLeft_add_eq_or_of_lt (BitVec.isLt _)]
  simp only [Nat.shiftLeft_eq]
  omega

/-- The bytes of a word as summands. -/
theorem le32_eq_add (b0 b1 b2 b3 : Byte) :
    le32 b0 b1 b2 b3 =
      b0.setWidth 32 + b1.setWidth 32 <<< 8 + b2.setWidth 32 <<< 16 + b3.setWidth 32 <<< 24 := by
  apply BitVec.eq_of_toNat_eq
  rw [inputWordsAreLittleEndian]
  simp [Nat.shiftLeft_eq]
  omega

/-- Byte j of word k of a sequence. -/
theorem extractLsb'_wordAt (d : List Byte) (k : Nat) {j : Nat} (hj : j < 4) :
    (wordAt d k).extractLsb' (8 * j) 8 = d.getD (4 * k + j) 0 := by
  apply BitVec.eq_of_toNat_eq
  rw [wordAt, BitVec.extractLsb'_toNat, inputWordsAreLittleEndian, Nat.shiftRight_eq_div_pow]
  interval_cases j <;> simp only [Nat.add_zero, Nat.reduceMul, Nat.reducePow] <;> omega

/-- A word is determined by its four bytes. -/
theorem word_eq_of_extractLsb'_eq {v w : Word}
    (h : ∀ j < 4, v.extractLsb' (8 * j) 8 = w.extractLsb' (8 * j) 8) : v = w := by
  ext i hi
  have hbit := congrArg (·.getLsbD (i % 8)) (h (i / 8) (by omega))
  simpa [BitVec.getLsbD_extractLsb', Nat.mod_lt, Nat.div_add_mod, hi] using hbit

/-! ### Tail absorption (40_datapath.md R105) -/

theorem addTailByte_eq (t : Triple) {j : Nat} (hj : j < 12) (e : Byte) :
    addTailByte t j e =
      ⟨t.a + if j / 4 = 0 then e.setWidth 32 <<< (8 * (j % 4)) else 0,
        t.b + if j / 4 = 1 then e.setWidth 32 <<< (8 * (j % 4)) else 0,
        t.c + if j / 4 = 2 then e.setWidth 32 <<< (8 * (j % 4)) else 0⟩ := by
  obtain h | h | h : j / 4 = 0 ∨ j / 4 = 1 ∨ j / 4 = 2 := by omega
  all_goals simp [addTailByte, h]

theorem tailAddFrom_concat (es : List Byte) (x : Byte) (j : Nat) (t : Triple) :
    tailAddFrom j t (es ++ [x]) = addTailByte (tailAddFrom j t es) (j + es.length) x := by
  induction es generalizing j t with
  | nil => rfl
  | cons e es ih => simp [ih, Nat.add_assoc, Nat.add_comm 1]

theorem getD_concat (es : List Byte) (x : Byte) (i : Nat) :
    (es ++ [x]).getD i 0 = if i = es.length then x else es.getD i 0 := by
  obtain h | rfl | h := Nat.lt_trichotomy i es.length
  · rw [List.getD_append _ _ _ _ h, if_neg h.ne]
  · simp
  · rw [if_neg h.ne', List.getD_eq_default _ _ (by simpa using h), List.getD_eq_default _ _ h.le]

/-- One more byte adds into the word it falls in. -/
theorem wordAt_concat (es : List Byte) (x : Byte) (k : Nat) :
    wordAt (es ++ [x]) k =
      wordAt es k + if es.length / 4 = k then x.setWidth 32 <<< (8 * (es.length % 4)) else 0 := by
  by_cases hk : es.length / 4 = k
  · have hend : es.getD es.length 0 = 0 := List.getD_eq_default _ _ le_rfl
    rw [if_pos hk]
    obtain h | h | h | h :
        es.length = 4 * k ∨ es.length = 4 * k + 1 ∨ es.length = 4 * k + 2 ∨ es.length = 4 * k + 3 := by omega
    all_goals
      rw [h] at hend ⊢
      simp only [wordAt, getD_concat, le32_eq_add, h, hend]
      simp [-List.getD_eq_getElem?_getD, add_right_comm, add_comm (x.setWidth 32)]
  · have h0 : 4 * k ≠ es.length := by omega
    have h1 : 4 * k + 1 ≠ es.length := by omega
    have h2 : 4 * k + 2 ≠ es.length := by omega
    have h3 : 4 * k + 3 ≠ es.length := by omega
    simp only [wordAt, getD_concat, if_neg hk, if_neg h0, if_neg h1, if_neg h2, if_neg h3]
    exact (BitVec.add_zero _).symm

/-- TAILADD adds word k of the tail into accumulator k. -/
theorem tailAdd_eq_add_wordAt (t : Triple) {e : List Byte} (he : e.length ≤ 12) :
    tailAdd t e = ⟨t.a + wordAt e 0, t.b + wordAt e 1, t.c + wordAt e 2⟩ := by
  induction e using List.reverseRecOn with
  | nil => simp [tailAdd, wordAt, le32]
  | append_singleton es x ih =>
    have hlen : es.length < 12 := by simpa using he
    calc tailAdd t (es ++ [x])
        = addTailByte (tailAdd t es) es.length x := by simp [tailAdd, tailAddFrom_concat]
      _ = ⟨t.a + wordAt (es ++ [x]) 0, t.b + wordAt (es ++ [x]) 1, t.c + wordAt (es ++ [x]) 2⟩ := by
        simp only [ih hlen.le, addTailByte_eq _ hlen, wordAt_concat, BitVec.add_assoc]

theorem extractLsb'_byteMask {n j : Nat} (hn : n ≤ 4) (hj : j < 4) :
    (byteMask n).extractLsb' (8 * j) 8 = if j < n then BitVec.allOnes 8 else 0 := by
  interval_cases n <;> interval_cases j <;> decide

/-- A word whose low bytes are the tail's, and whose other bytes the mask removes, is the tail's word. -/
theorem wordAt_eq_and_byteMask {e : List Byte} {w : Word} {k : Nat}
    (h : ∀ j, j < 4 → 4 * k + j < e.length → w.extractLsb' (8 * j) 8 = e.getD (4 * k + j) 0) :
    wordAt e k = w &&& byteMask (clampCount e.length (4 * k)) := by
  refine word_eq_of_extractLsb'_eq fun j hj => ?_
  rw [extractLsb'_wordAt e k hj, BitVec.extractLsb'_and,
    extractLsb'_byteMask (n := clampCount e.length (4 * k)) (Nat.min_le_left ..) hj, clampCount]
  by_cases hlt : 4 * k + j < e.length
  · rw [if_pos (by omega), BitVec.and_allOnes, h j hj hlt]
  · rw [if_neg (by omega), List.getD_eq_default _ _ (by omega)]
    simp

/-- Settles O28: in both forms each accumulator gains the tail's word. -/
theorem tailAddOperandForm : Obligations.TailAddOperandForm := by
  intro t e w0 w1 w2 he h0 h1 h2
  rw [tailAdd_eq_add_wordAt t he, tailAddW, wordAt_eq_and_byteMask (k := 0) (w := w0) (by simpa using h0),
    wordAt_eq_and_byteMask (k := 1) h1, wordAt_eq_and_byteMask (k := 2) h2]

/-! ### UPDATEFN (40_datapath.md R107, R108) -/

/-- While more than 12 bytes remain, UPDATEFN absorbs a block. -/
theorem updateFn_long {d : List Byte} (h : 12 < d.length) (t : Triple) :
    updateFn d t = updateFn (d.drop 12) (absorbBlock t d) := by
  obtain ⟨k, hk⟩ : ∃ k, d.length = k + 1 := ⟨d.length - 1, by omega⟩
  have hloop : blockLoop d.length d t = blockLoop (d.drop 12).length (d.drop 12) (absorbBlock t d) := by
    rw [hk, blockLoop_long k h]
    exact blockLoop_enough (by simp; omega) le_rfl _
  simp only [updateFn, hloop]

/-- With 1 to 12 bytes UPDATEFN is TAILADD and FINAL. -/
theorem updateFn_short {d : List Byte} (hd : d ≠ []) (h : d.length ≤ 12) (t : Triple) :
    updateFn d t = final (tailAdd t d) := by
  cases d with
  | nil => contradiction
  | cons e es => rw [updateFn, blockLoop_short _ h, finishTail_cons]

/-- Settles O29: a round of the loop, the end of the loop, and no bytes at all. -/
theorem updateFnFollowsItsSteps : Obligations.UpdateFnFollowsItsSteps := by
  refine ⟨fun d t h => updateFn_long h t, fun d t h1 h12 => ?_, fun t => rfl⟩
  exact updateFn_short (List.ne_nil_of_length_pos h1) h12 t

/-- k blocks and 1 to 12 bytes more. -/
theorem updateFn_blocks (k : Nat) {d : List Byte} (hlo : 12 * k < d.length) (hhi : d.length ≤ 12 * k + 12)
    (t : Triple) : updateFn d t = final (tailAdd (absorbBlocks k d t) (d.drop (12 * k))) := by
  induction k generalizing d t with
  | zero => exact updateFn_short (List.ne_nil_of_length_pos hlo) hhi t
  | succ k ih =>
    rw [updateFn_long (by omega), ih (by simp; omega) (by simp; omega), List.drop_drop, Nat.mul_succ, Nat.add_comm]
    rfl

/-- Settles O30: L - 1 = 12 nb + r with r < 12. -/
theorem updateFnBlockCount : Obligations.UpdateFnBlockCount := by
  intro d t hd
  have hlen := List.length_pos_of_ne_nil hd
  exact ⟨by omega, by omega, updateFn_blocks _ (by omega) (by omega) t⟩

end Sys2Proof.Machine
end

section
/-! PROOF. The seeding family (41_seed_load.md): the seeding rule, and the commands that install a triple. -/

namespace Sys2Proof.Machine

/-! ### The seeding rule (41_seed_load.md R120, R124) -/

/-- The three words of the seeding rule's triple, with SEED_BASE as a numeral. -/
theorem seedRule_eq (s0 s1 : Word) : seedRule s0 s1 = ⟨0xdeadbeef + s0, 0xdeadbeef + s0, 0xdeadbeef + s0 + s1⟩ := rfl

/-- The first seed is the distance of A from SEED_BASE. -/
theorem seedRule_a_sub_base (s0 s1 : Word) : (seedRule s0 s1).a - 0xdeadbeef = s0 := by
  rw [seedRule_eq, add_sub_cancel_left]

/-- The second seed is the distance of C from A. -/
theorem seedRule_c_sub_a (s0 s1 : Word) : (seedRule s0 s1).c - (seedRule s0 s1).a = s1 := by
  rw [seedRule_eq, add_sub_cancel_left]

/-- Distinct pairs give distinct triples: both seeds are read back from the triple. -/
theorem seedRule_inj {s0 s1 r0 r1 : Word} (h : seedRule s0 s1 = seedRule r0 r1) : s0 = r0 ∧ s1 = r1 := by
  have h0 := seedRule_a_sub_base s0 s1
  have h1 := seedRule_c_sub_a s0 s1
  rw [h] at h0 h1
  exact ⟨h0.symm.trans (seedRule_a_sub_base r0 r1), h1.symm.trans (seedRule_c_sub_a r0 r1)⟩

/-- Settles O20: the pair is read back from the triple; the two named pairs are evaluated. -/
theorem seedRuleDeterminesPair : Obligations.SeedRuleDeterminesPair := by
  refine ⟨fun s0 s1 => ⟨rfl, seedRule_c_sub_a s0 s1, seedRule_a_sub_base s0 s1⟩, ?_, by decide, by decide⟩
  intro s0 s1 r0 r1
  exact seedRule_inj

/-! ### SEED, RESEED and LOAD (41_seed_load.md R121, R122, R123) -/

theorem exec_seed (s : State) : exec .seed s = .next ((s.setSeeds s.OP0 s.OP1).setAcc (seedRule s.OP0 s.OP1)) := rfl

theorem exec_reseed (s : State) : exec .reseed s = .next (s.setAcc (seedRule s.S0 s.S1)) := rfl

theorem exec_load (s : State) : exec .load s = .next (s.setAcc ⟨s.OP0, s.OP1, s.OP2⟩) := rfl

/-- Settles O17: the seeds are installed first, and no operand changes. -/
theorem seedInstallsPairAndTriple : Obligations.SeedInstallsPairAndTriple := by
  intro s
  rw [exec_seed, seedRule_eq]
  rfl

/-- Settles O18: the triple is seeded from the stored pair, which stays. -/
theorem reseedRestoresSeededTriple : Obligations.ReseedRestoresSeededTriple := by
  intro s
  rw [exec_reseed, seedRule_eq]
  rfl

/-- Settles O19: the operands become the triple. -/
theorem loadSetsTriple : Obligations.LoadSetsTriple := exec_load

end Sys2Proof.Machine
end

section
/-! PROOF. The absorbing family (42_absorb.md): BLOCK, TAIL, and the host-sequenced update. -/

namespace Sys2Proof.Machine

/-! ### BLOCK (42_absorb.md R140) -/

theorem exec_block (s : State) : exec .block s = .next (s.setAcc s.blockOperand) := rfl

/-- Settles O33: BLOCK's operand form is BLOCKFN of the three operand words. -/
theorem blockAbsorbsOperands : Obligations.BlockAbsorbsOperands :=
  fun s => ⟨s.blockOperand, rfl, exec_block s⟩

/-! ### The bytes a count selects (40_datapath.md R105) -/

theorem byteMask_toNat {k : Nat} (hk : k ≤ 4) : (byteMask k).toNat = 2 ^ (8 * k) - 1 := by
  interval_cases k <;> decide

/-- The mask keeps the low k bytes of a word. -/
theorem and_byteMask (w : Word) {k : Nat} (hk : k ≤ 4) :
    w &&& byteMask k = BitVec.ofNat 32 (w.toNat % 2 ^ (8 * k)) := by
  have hlt : w.toNat % 2 ^ (8 * k) < 2 ^ 32 := (Nat.mod_le _ _).trans_lt w.isLt
  refine BitVec.eq_of_toNat_eq ?_
  rw [BitVec.toNat_and, byteMask_toNat hk, Nat.and_two_pow_sub_one_eq_mod, BitVec.toNat_ofNat, Nat.mod_eq_of_lt hlt]

/-- TAILADD_W in arithmetic: each accumulator gains the low bytes of its word that n selects. -/
theorem tailAddW_eq_add_mod (t : Triple) (n : Nat) (w0 w1 w2 : Word) :
    tailAddW t n w0 w1 w2 =
      ⟨t.a + BitVec.ofNat 32 (w0.toNat % 2 ^ (8 * min n 4)),
        t.b + BitVec.ofNat 32 (w1.toNat % 2 ^ (8 * min (n - 4) 4)),
        t.c + BitVec.ofNat 32 (w2.toNat % 2 ^ (8 * min (n - 8) 4))⟩ := by
  simp only [tailAddW, clampCount, Nat.min_comm 4, Nat.sub_zero,
    and_byteMask _ (Nat.min_le_right _ 4)]

/-- Words that agree on the bytes a count selects are masked alike. -/
theorem and_byteMask_congr {v w : Word} {n start : Nat}
    (h : ∀ j, j < 4 → start + j < n → v.extractLsb' (8 * j) 8 = w.extractLsb' (8 * j) 8) :
    v &&& byteMask (clampCount n start) = w &&& byteMask (clampCount n start) := by
  refine word_eq_of_extractLsb'_eq fun j hj => ?_
  rw [BitVec.extractLsb'_and, BitVec.extractLsb'_and,
    extractLsb'_byteMask (n := clampCount n start) (Nat.min_le_left ..) hj, clampCount]
  by_cases hsel : start + j < n
  · rw [h j hj hsel]
  · rw [if_neg (by omega)]
    simp

/-- TAILADD_W depends on the selected bytes only. -/
theorem tailAddW_congr (t : Triple) {n : Nat} {v0 v1 v2 w0 w1 w2 : Word}
    (h0 : ∀ j, j < 4 → j < n → v0.extractLsb' (8 * j) 8 = w0.extractLsb' (8 * j) 8)
    (h1 : ∀ j, j < 4 → 4 + j < n → v1.extractLsb' (8 * j) 8 = w1.extractLsb' (8 * j) 8)
    (h2 : ∀ j, j < 4 → 8 + j < n → v2.extractLsb' (8 * j) 8 = w2.extractLsb' (8 * j) 8) :
    tailAddW t n v0 v1 v2 = tailAddW t n w0 w1 w2 := by
  rw [tailAddW, and_byteMask_congr (start := 0) (by simpa using h0), and_byteMask_congr h1, and_byteMask_congr h2]
  rfl

theorem tailAddW_zero (t : Triple) (n : Nat) : tailAddW t n 0 0 0 = t := by simp [tailAddW]

theorem blockFn_zero (t : Triple) : blockFn t 0 0 0 = mix t := by simp [blockFn]

/-! ### TAIL (42_absorb.md R141) -/

theorem exec_tail (n : Fin 16) (s : State) : exec (.tail n) s = execTail n s := rfl

/-- Settles O34: the three cases of TAIL's count. -/
theorem tailAbsorbsSelectedBytes : Obligations.TailAbsorbsSelectedBytes := by
  intro s n
  rw [exec_tail]
  refine ⟨fun h0 => execTail_zero h0 s, fun h1 h12 => ?_, fun h13 => execTail_long h13 s⟩
  refine ⟨final (s.tailOperand n.val), ?_, execTail_some (by omega) h12 s⟩
  exact congrArg final (tailAddW_eq_add_mod s.acc n.val s.OP0 s.OP1 s.OP2)

/-- The operand registers with other words in them. -/
def State.withOperands (s : State) (w0 w1 w2 : Word) : State := { s with OP0 := w0, OP1 := w1, OP2 := w2 }

/-- Settles O35: only the case n = 1 to 12 reads the operands, and it masks them alike. -/
theorem tailIgnoresStaleBytes : Obligations.TailIgnoresStaleBytes := by
  intro s n x0 x1 x2 h0 h1 h2
  change ∃ t : State, exec (.tail n) s = .next t ∧
    exec (.tail n) (s.withOperands x0 x1 x2) = .next (t.withOperands x0 x1 x2)
  simp only [exec_tail]
  obtain hz | ⟨hnz, h12⟩ | hlong : n.val = 0 ∨ (n.val ≠ 0 ∧ n.val ≤ 12) ∨ 12 < n.val := by omega
  · exact ⟨s, execTail_zero hz s, execTail_zero hz _⟩
  · refine ⟨s.setAcc (final (s.tailOperand n.val)), execTail_some hnz h12 s, ?_⟩
    have hop : (s.withOperands x0 x1 x2).tailOperand n.val = s.tailOperand n.val := tailAddW_congr s.acc h0 h1 h2
    rw [execTail_some hnz h12, hop]
    rfl
  · exact ⟨s.raise .illegalCommand, execTail_long hlong s, execTail_long hlong _⟩

/-- Settles O36: nothing is added, so MIX or FINAL is all that is left. -/
theorem zeroOperandsGiveMixOrFinalAlone : Obligations.ZeroOperandsGiveMixOrFinalAlone := by
  constructor
  · intro s h0 h1 h2
    rw [exec_block, State.blockOperand, h0, h1, h2, blockFn_zero]
  · intro s n hn h12 h0 h1 h2
    have hop : s.tailOperand n.val = s.acc :=
      (tailAddW_congr s.acc (w0 := 0) (w1 := 0) (w2 := 0) (by simpa using h0) (by simpa using h1)
        (by simpa using h2)).trans (tailAddW_zero s.acc n.val)
    rw [exec_tail, execTail_some (by omega) h12, hop]

/-! ### Runs of issued accesses -/

/-- A step takes the first access issued. -/
theorem step_issue_cons (s : State) (e : Event) (es : List Event) :
    step (s.issue (e :: es)) = perform e (s.issue es) := step_pending rfl

/-- A run over a write to a register other than CMD. -/
theorem run_issue_writeReg (k : Nat) (s : State) {i : PortIndex} (hi : i ≠ cmdIndex) (v : Word) (es : List Event) :
    run (k + 1) (s.issue (.write i v :: es)) = run k ((s.issue es).writeReg i v) := by
  refine run_succ ?_
  rw [step_issue_cons, perform_write, portWrite_reg hi]

/-- A run over a command that completes. -/
theorem run_issue_wrCMD (k : Nat) {s t : State} {i : Instr} {es : List Event} (hi : i.wf = true)
    (h : exec i (s.issue es) = .next t) : run (k + 1) (s.issue (wrCMD i :: es)) = run k t.settle := by
  refine run_succ ?_
  rw [step_issue_cons, wrCMD, perform_write, portWrite_cmd, execute_legal (decode_encode hi), h, settled_next]

/-- A run over the three operand writes. -/
theorem run_issue_operands (k : Nat) (s : State) (w0 w1 w2 : Word) (es : List Event) :
    run (k + 3) (s.issue (wrOP0 w0 :: wrOP1 w1 :: wrOP2 w2 :: es)) = run k ((s.withOperands w0 w1 w2).issue es) := by
  calc run (k + 3) (s.issue (wrOP0 w0 :: wrOP1 w1 :: wrOP2 w2 :: es))
      = run (k + 2) (State.issue { s with OP0 := w0 } (wrOP1 w1 :: wrOP2 w2 :: es)) :=
        run_issue_writeReg _ _ (by decide) _ _
    _ = run (k + 1) (State.issue { s with OP0 := w0, OP1 := w1 } (wrOP2 w2 :: es)) :=
        run_issue_writeReg _ _ (by decide) _ _
    _ = run k ((s.withOperands w0 w1 w2).issue es) := run_issue_writeReg _ _ (by decide) _ _

/-! ### The host-sequenced update (42_absorb.md R143) -/

/-- What an absorbing command leaves after its three operand writes: x in A, B, C, and the overlapping stores of
other agents complete (log 6). -/
def State.absorbed (s : State) (w0 w1 w2 : Word) (x : Triple) : State := ((s.withOperands w0 w1 w2).setAcc x).settle

theorem run_issue_block (k : Nat) (s : State) (w0 w1 w2 : Word) (es : List Event) :
    run (k + 4) (s.issue (blockAccesses w0 w1 w2 ++ es)) =
      run k ((s.absorbed w0 w1 w2 (blockFn s.acc w0 w1 w2)).issue es) :=
  (run_issue_operands (k + 1) s w0 w1 w2 (wrCMD .block :: es)).trans (run_issue_wrCMD k rfl (exec_block _))

theorem run_issue_tail (k : Nat) (s : State) {n : Fin 16} (h0 : n.val ≠ 0) (h12 : n.val ≤ 12) (w0 w1 w2 : Word)
    (es : List Event) :
    run (k + 4) (s.issue (tailAccesses n w0 w1 w2 ++ es)) =
      run k ((s.absorbed w0 w1 w2 (final (tailAddW s.acc n.val w0 w1 w2))).issue es) :=
  (run_issue_operands (k + 1) s w0 w1 w2 (wrCMD (.tail n) :: es)).trans
    (run_issue_wrCMD k ((Instr.wf_tail n).mpr h12) (execTail_some h0 h12 _))

/-- State t is s with the triple x in A, B, C; besides, only the operands and what overlapping stores reach differ. -/
def State.AbsorbsTo (s : State) (x : Triple) (t : State) : Prop :=
  ∃ x0 x1 x2 m r, t = { s.setAcc x with OP0 := x0, OP1 := x1, OP2 := x2, mem := m, rivals := r }

theorem State.absorbsTo_self (s : State) : s.AbsorbsTo s.acc s := ⟨_, _, _, _, _, rfl⟩

theorem State.absorbsTo_absorbed (s : State) (w0 w1 w2 : Word) (x : Triple) :
    s.AbsorbsTo x (s.absorbed w0 w1 w2 x) := ⟨_, _, _, _, _, rfl⟩

theorem State.AbsorbsTo.trans {s t u : State} {x y : Triple} (hst : s.AbsorbsTo x t) (htu : t.AbsorbsTo y u) :
    s.AbsorbsTo y u := by
  obtain ⟨x0, x1, x2, m, r, rfl⟩ := hst
  obtain ⟨y0, y1, y2, m', r', rfl⟩ := htu
  exact ⟨y0, y1, y2, m', r', rfl⟩

theorem State.AbsorbsTo.acc_eq {s t : State} {x : Triple} (h : s.AbsorbsTo x t) : t.acc = x := by
  obtain ⟨x0, x1, x2, m, r, rfl⟩ := h
  rfl

/-- A run over the BLOCKs of the first nb blocks absorbs them. -/
theorem run_issue_blocksOf (nb k : Nat) (d : List Byte) (s : State) (es : List Event) :
    ∃ t, s.AbsorbsTo (absorbBlocks nb d s.acc) t ∧
      run (k + (blocksOf nb d).length) (s.issue (blocksOf nb d ++ es)) = run k (t.issue es) := by
  induction nb generalizing d s with
  | zero => exact ⟨s, s.absorbsTo_self, rfl⟩
  | succ nb ih =>
    have hblock := s.absorbsTo_absorbed (wordAt d 0) (wordAt d 1) (wordAt d 2) (absorbBlock s.acc d)
    obtain ⟨t, ht, hrun⟩ := ih (d.drop Config.blockBytes) (s.absorbed _ _ _ _)
    rw [hblock.acc_eq] at ht
    refine ⟨t, hblock.trans ht, ?_⟩
    rw [blocksOf, List.append_assoc, List.length_append, Nat.add_left_comm, Nat.add_comm]
    exact (run_issue_block _ s _ _ _ _).trans hrun

/-- The operand form of a tail packed little-endian is the byte form (20_memory.md R56). -/
theorem tailAddW_wordAt (t : Triple) {e : List Byte} (he : e.length ≤ 12) :
    tailAddW t e.length (wordAt e 0) (wordAt e 1) (wordAt e 2) = tailAdd t e := by
  refine (tailAddOperandForm t e _ _ _ he (fun j hj _ => ?_) (fun j hj _ => ?_) (fun j hj _ => ?_)).symm
  · simpa using extractLsb'_wordAt e 0 hj
  · exact extractLsb'_wordAt e 1 hj
  · exact extractLsb'_wordAt e 2 hj

/-- A run over a TAIL of 1 to 12 bytes, packed little-endian, absorbs them. -/
theorem run_issue_packedTail (s : State) {e : List Byte} (he : e ≠ []) (h12 : e.length ≤ 12) :
    ∃ t, s.AbsorbsTo (final (tailAdd s.acc e)) t ∧
      run 4 (s.issue (tailAccesses (Fin.ofNat 16 e.length) (wordAt e 0) (wordAt e 1) (wordAt e 2))) = .next t := by
  have hcount : (Fin.ofNat 16 e.length).val = e.length := Nat.mod_eq_of_lt (by omega)
  have h0 : (Fin.ofNat 16 e.length).val ≠ 0 := by rwa [hcount, ne_eq, List.length_eq_zero_iff]
  have hrun := run_issue_tail 0 s h0 (hcount.trans_le h12) (wordAt e 0) (wordAt e 1) (wordAt e 2) []
  rw [hcount, tailAddW_wordAt _ h12] at hrun
  exact ⟨_, s.absorbsTo_absorbed _ _ _ _, hrun⟩

/-- A run over the host-sequenced update absorbs the whole sequence: nothing, or nb blocks and 1 to 12 bytes more. -/
theorem run_issue_hostUpdate (s : State) (d : List Byte) :
    ∃ t, s.AbsorbsTo (updateFn d s.acc) t ∧
      run (hostUpdateAccesses d).length (s.issue (hostUpdateAccesses d)) = .next t := by
  obtain rfl | hd := eq_or_ne d []
  · exact ⟨s, s.absorbsTo_self, rfl⟩
  · have hpos := List.length_pos_of_ne_nil hd
    rw [hostUpdateAccesses, if_neg hpos.ne', Config.blockBytes]
    generalize hnb : (d.length - 1) / 12 = nb
    rw [updateFn_blocks nb (by omega) (by omega)]
    obtain ⟨u, hu, hblocks⟩ := run_issue_blocksOf nb 4 d s _
    obtain ⟨t, ht, htail⟩ := run_issue_packedTail u (e := d.drop (12 * nb)) (by simp; omega) (by simp; omega)
    rw [hu.acc_eq] at ht
    refine ⟨t, hu.trans ht, ?_⟩
    rw [List.length_append, Nat.add_comm]
    exact hblocks.trans htail

/-- Settles O55: the frame of the run, field by field. -/
theorem hostSequencedUpdateIsUpdateFn : Obligations.HostSequencedUpdateIsUpdateFn := by
  intro s d
  obtain ⟨t, ⟨x0, x1, x2, m, r, rfl⟩, hrun⟩ := run_issue_hostUpdate s d
  exact ⟨_, hrun, rfl, rfl, rfl, rfl, rfl, rfl⟩

end Sys2Proof.Machine
end

section
/-! PROOF. The family of UPDATE and DIGEST (43_update_digest.md): UPDATE's input, the four bytes of DIGEST. -/

namespace Sys2Proof.Machine

/-! ### The addresses of a memory command (20_memory.md R51, R58, R59) -/

theorem State.reachesWindow_byteAddrs {s : State} {p : Word} {n : Nat} :
    s.reachesWindow (byteAddrs p n) = false ↔ ∀ i < n, s.inWindow (p + BitVec.ofNat 32 i) = false := by
  simp [State.reachesWindow, byteAddrs]

theorem byteAddrs_nodup (p : Word) {n : Nat} (hn : n ≤ 2 ^ 32) : (byteAddrs p n).Nodup := by
  refine List.Nodup.map_on (fun i hi j hj hij => ?_) List.nodup_range
  rw [List.mem_range] at hi hj
  have hmod : i % 2 ^ 32 = j % 2 ^ 32 := by
    simpa using congrArg BitVec.toNat (add_left_cancel hij)
  omega

/-! ### UPDATE (43_update_digest.md R160, R162, R164) -/

theorem State.updateInput_length (s : State) : s.updateInput.length = s.OP1.toNat := by
  simp [State.updateInput]

/-- Where no other agent is writing, UPDATE's input is memory. -/
theorem State.updateInput_getD_quiet {s : State} {i : Nat} (hi : i < s.OP1.toNat)
    (hq : s.quiet (s.OP0 + BitVec.ofNat 32 i)) :
    s.updateInput.getD i 0 = s.byteAt (s.OP0 + BitVec.ofNat 32 i) := by
  simp [State.updateInput, hi, State.loadByte_quiet hq]

/-- Settles O37: the bytes are updateInput's. -/
theorem updateRunsOverItsInput : Obligations.UpdateRunsOverItsInput := fun s hw =>
  ⟨s.updateInput, _, s.updateInput_length, fun _ hi hq => State.updateInput_getD_quiet hi hq, rfl,
    exec_update_next.mpr ⟨State.reachesWindow_byteAddrs.mpr hw, rfl⟩⟩

/-- Settles O38: there is no address to reach the window, and no byte to absorb or draw. -/
theorem updateOfNothingChangesNothing : Obligations.UpdateOfNothingChangesNothing := by
  intro s h
  have hin : s.updateInput = [] := List.length_eq_zero_iff.mp (by simp [s.updateInput_length, h])
  refine exec_update_next.mpr ⟨State.reachesWindow_byteAddrs.mpr (by simp [h]), ?_⟩
  rw [hin, h]
  rfl

/-- Settles O31: twelve bytes alone end in FINAL, the first twelve of thirteen in MIX. -/
theorem updateIsNotIncremental : Obligations.UpdateIsNotIncremental := by
  refine ⟨List.replicate 12 0, [0], ⟨1, 0, 0⟩, rfl, rfl, ?_⟩
  rw [updateFn_short (by decide) (by decide), updateFn_short (by decide) (by decide), updateFn_long (by decide),
    updateFn_short (by decide) (by decide)]
  decide

/-! ### A sequence of contended byte stores (20_memory.md R65) -/

/-- The stores of other agents that are over are exactly those to the addresses stored to (log 6). -/
theorem State.mem_storeBytes_rivals (cells : List (Word × Byte)) (s : State) (x : Word × Byte) :
    x ∈ (s.storeBytes cells).rivals ↔ x ∈ s.rivals ∧ ∀ c ∈ cells, x.1 ≠ c.1 := by
  induction cells generalizing s with
  | nil => simp [State.storeBytes]
  | cons c cells ih => simp [State.storeBytes, ih, and_assoc]

theorem State.storeBytes_other (cells : List (Word × Byte)) (s : State) (a : Word) (ha : ∀ c ∈ cells, a ≠ c.1) :
    (s.storeBytes cells).byteAt a = s.byteAt a :=
  (State.storeBytes_storedWithin (P := (a ≠ ·)) ha s).read_eq (by simp)

/-- After a store, a byte is the one stored, or one that another agent was writing there. -/
theorem State.storeByte_self {s : State} (hs : s.mem.wf = true) (a : Word) (b : Byte) :
    (s.storeByte a b).byteAt a = b ∨ (a, (s.storeByte a b).byteAt a) ∈ s.rivals := by
  have hread : (s.storeByte a b).byteAt a = pickByte s.draws b (s.rivalBytes a) := Memory.read_write_self hs _ _
  rw [hread, ← State.mem_rivalBytes]
  exact pickByte_cases _ _ _

/-- After stores to distinct addresses each holds the byte stored there, or one that another agent was writing there. -/
theorem State.storeBytes_self {cells : List (Word × Byte)} {s : State} (hs : s.mem.wf = true)
    (hd : (cells.map Prod.fst).Nodup) {c : Word × Byte} (hc : c ∈ cells) :
    (s.storeBytes cells).byteAt c.1 = c.2 ∨ (c.1, (s.storeBytes cells).byteAt c.1) ∈ s.rivals := by
  induction cells generalizing s with
  | nil => cases hc
  | cons c' cells ih =>
    obtain ⟨hnew, hd⟩ := List.nodup_cons.mp hd
    obtain rfl | hc := List.mem_cons.mp hc
    · have hlater : (s.storeBytes (c :: cells)).byteAt c.1 = (s.storeByte c.1 c.2).byteAt c.1 :=
        State.storeBytes_other _ _ _ fun d hmem e => hnew (List.mem_map.mpr ⟨d, hmem, e.symm⟩)
      rw [hlater]
      exact State.storeByte_self hs c.1 c.2
    · exact (ih (State.storeByte_wf hs c'.1 c'.2) hd hc).imp_right
        (s.storeByte_rivals_subset c'.1 c'.2 ·)

/-! ### DIGEST (43_update_digest.md R161) -/

theorem State.digestCells_map_fst (s : State) : s.digestCells.map Prod.fst = byteAddrs s.OP0 4 := rfl

/-- DIGEST completes with its four stores when it stays out of the window. -/
theorem exec_digest {s : State} (hw : s.reachesWindow (byteAddrs s.OP0 4) = false) :
    exec .digest s = .next (s.storeBytes s.digestCells) := by
  simp [exec, execDigest, State.digestCells_map_fst, hw]

theorem State.forall_digestCells {s : State} {P : Word × Byte → Prop} :
    (∀ c ∈ s.digestCells, P c) ↔ ∀ k < 4, P (s.OP0 + BitVec.ofNat 32 k, s.C.extractLsb' (24 - 8 * k) 8) := by
  simp [State.digestCells, Config.outBytes, beByte, Nat.mul_sub]

theorem State.digestCells_nodup (s : State) : (s.digestCells.map Prod.fst).Nodup :=
  s.digestCells_map_fst ▸ byteAddrs_nodup s.OP0 (by decide)

/-- Settles O40: DIGEST is four contended stores to distinct addresses. -/
theorem digestWritesFourBytesBigEndian : Obligations.DigestWritesFourBytesBigEndian := by
  intro s hs hw
  obtain ⟨m, r, n, hframe⟩ := s.storeBytes_frame s.digestCells
  have hself := fun c => State.storeBytes_self hs s.digestCells_nodup (c := c)
  have hother := State.storeBytes_other s.digestCells s
  have hrivals := State.mem_storeBytes_rivals s.digestCells s
  have hrun := exec_digest (State.reachesWindow_byteAddrs.mpr hw)
  simp only [hframe, State.forall_digestCells] at hself hother hrivals hrun
  exact ⟨m, r, n, hrun, fun k hk => (hself k hk).imp_right fun hmem => ⟨_, hmem, rfl, rfl⟩, hother, hrivals⟩

end Sys2Proof.Machine
end

section
/-! PROOF. The family of the host-level entry points (44_entry_points.md): the one-shot checksums, the 64-bit identifier. -/

namespace Sys2Proof.Machine

/-! ### The 64-bit identifier (44_entry_points.md R185) -/

theorem id64_eq_append (c b : Word) : id64 c b = b ++ c := by
  have happend : (b ++ c).setWidth 64 = b.setWidth 64 <<< 32 ||| c.setWidth 64 :=
    BitVec.setWidth_append_eq_shiftLeft_setWidth_or
  rw [id64, BitVec.or_comm, ← happend]
  exact BitVec.setWidth_eq _

/-- Settles O32: the two words fill disjoint bits, so their join is their sum. -/
theorem identifierWords : Obligations.IdentifierWords := by
  intro c b
  calc (id64 c b).toNat
      = b.toNat <<< 32 ||| c.toNat := by rw [id64_eq_append, BitVec.toNat_append]
    _ = b.toNat <<< 32 + c.toNat := (Nat.shiftLeft_add_eq_or_of_lt c.isLt _).symm
    _ = c.toNat + 4294967296 * b.toNat := by rw [Nat.shiftLeft_eq]; omega

/-! ### Runs where no other agent is writing (70_reset_and_hazards.md R225) -/

/-- Where no other agent is writing, UPDATE's input is the bytes of memory at p. -/
theorem State.updateInput_calm {s : State} (hs : s.rivals = []) : s.updateInput = s.bytesFrom s.OP0 s.OP1.toNat := by
  have hquiet : ∀ a, s.quiet a := fun a r hr => by simp [hs] at hr
  simp [State.updateInput, State.bytesFrom, byteAddrs, State.loadByte_quiet (hquiet _)]

/-- A run over a command that completes with no store overlapping it. -/
theorem run_issue_wrCMD_calm (k : Nat) {s t : State} {i : Instr} {es : List Event} (hs : s.rivals = [])
    (hi : i.wf = true) (h : exec i (s.issue es) = .next t) : run (k + 1) (s.issue (wrCMD i :: es)) = run k t := by
  have hsub : t.rivals ⊆ (s.issue es).rivals := exec_rivals_subset h
  rw [State.issue_rivals, hs, List.subset_nil] at hsub
  rw [run_issue_wrCMD k hi h, State.settle_calm hsub]

/-- A run over writes of the first two operands. -/
theorem run_issue_twoOperands (k : Nat) (s : State) (w0 w1 : Word) (es : List Event) :
    run (k + 2) (s.issue (wrOP0 w0 :: wrOP1 w1 :: es)) = run k ((s.withOperands w0 w1 s.OP2).issue es) :=
  (run_issue_writeReg (k + 1) s (by decide) w0 (wrOP1 w1 :: es)).trans
    (run_issue_writeReg k (s.withOperands w0 s.OP1 s.OP2) (by decide) w1 es)

/-- A run over port reads returns the registers read, in their order. -/
theorem run_issue_reads (s : State) (ports : List PortIndex) :
    run ports.length (s.issue (ports.map .read)) = .next { s with returned := s.returned ++ ports.map s.rd } := by
  induction ports generalizing s with
  | nil => simp [State.issue]
  | cons i ports ih =>
    calc run (ports.length + 1) (s.issue (.read i :: ports.map .read))
        = run ports.length ((s.portRead i).issue (ports.map .read)) := run_succ (step_issue_cons s _ _)
      _ = .next { s with returned := s.returned ++ [s.rd i] ++ ports.map s.rd } := ih (s.portRead i)
      _ = .next { s with returned := s.returned ++ (i :: ports).map s.rd } := by
        rw [List.append_assoc, List.singleton_append, List.map_cons]

/-! ### The accesses of the one-shot functions (44_entry_points.md R180, R181, R182) -/

/-- What LOAD a, b, c leaves. -/
def State.loaded (s : State) (a b c : Word) : State := (s.withOperands a b c).setAcc ⟨a, b, c⟩

/-- What SEED s0, s1 leaves. -/
def State.seeded (s : State) (s0 s1 : Word) : State :=
  ((s.withOperands s0 s1 s.OP2).setSeeds s0 s1).setAcc (seedRule s0 s1)

/-- What UPDATE p, l leaves where no other agent is writing. -/
def State.updated (s : State) (p l : Word) : State :=
  ((s.withOperands p l s.OP2).setAcc (updateFn (s.bytesFrom p l.toNat) s.acc)).advance l.toNat

section
variable {s : State} (hs : s.rivals = [])
include hs

theorem run_issue_load (k : Nat) (a b c : Word) (es : List Event) :
    run (k + 4) (s.issue (loadAccesses a b c ++ es)) = run k ((s.loaded a b c).issue es) :=
  (run_issue_operands (k + 1) s a b c (wrCMD .load :: es)).trans
    (run_issue_wrCMD_calm (s := s.withOperands a b c) k hs rfl (exec_load _))

theorem run_issue_seed (k : Nat) (s0 s1 : Word) (es : List Event) :
    run (k + 3) (s.issue ((Pseudo.seed s0 s1).expand ++ es)) = run k ((s.seeded s0 s1).issue es) :=
  (run_issue_twoOperands (k + 1) s s0 s1 (wrCMD .seed :: es)).trans
    (run_issue_wrCMD_calm (s := s.withOperands s0 s1 s.OP2) k hs rfl (exec_seed _))

theorem run_issue_update (hw : s.windowHidden) (k : Nat) (p l : Word) (es : List Event) :
    run (k + 3) (s.issue ((Pseudo.update p l).expand ++ es)) = run k ((s.updated p l).issue es) := by
  have hexec : exec .update ((s.withOperands p l s.OP2).issue es) = .next ((s.updated p l).issue es) := by
    refine exec_update_next.mpr ⟨State.reachesWindow_hidden hw _, ?_⟩
    rw [State.updateInput_calm (s := (s.withOperands p l s.OP2).issue es) hs]
    rfl
  exact (run_issue_twoOperands (k + 1) s p l (wrCMD .update :: es)).trans
    (run_issue_wrCMD_calm (s := s.withOperands p l s.OP2) k hs rfl hexec)

/-- A run over UPDATE p, l and port reads after it returns registers of the updated state. -/
theorem run_issue_update_reads (hw : s.windowHidden) (p l : Word) (ports : List PortIndex) :
    run (ports.length + 3) (s.issue ((Pseudo.update p l).expand ++ ports.map .read)) =
      .next { s.updated p l with returned := s.returned ++ ports.map (s.updated p l).rd } :=
  (run_issue_update hs hw ports.length p l _).trans (run_issue_reads (s.updated p l) ports)

/-- A run over SEED s0, s1, UPDATE p, l and port reads after them. -/
theorem run_issue_seed_update_reads (hw : s.windowHidden) (p l s0 s1 : Word) (ports : List PortIndex) :
    run (ports.length + 6)
        (s.issue ((Pseudo.seed s0 s1).expand ++ ((Pseudo.update p l).expand ++ ports.map .read))) =
      .next { (s.seeded s0 s1).updated p l with
        returned := s.returned ++ ports.map ((s.seeded s0 s1).updated p l).rd } :=
  (run_issue_seed hs (ports.length + 3) s0 s1 _).trans
    (run_issue_update_reads (s := s.seeded s0 s1) hs hw p l ports)

end

/-- Settles O56: CHKINIT is a LOAD, and index 2 reads C. -/
theorem checksumReturnsC : Obligations.ChecksumReturnsC := by
  intro s p l hw hs
  have hrun := (run_issue_load hs 4 seedBase seedBase seedBase _).trans
    (run_issue_update_reads (s := s.loaded seedBase seedBase seedBase) hs hw p l [2])
  exact ⟨_, hrun, rfl, rfl, rfl, rfl, rfl, rfl⟩

/-- Settles O57: the two sequences differ only in the registers read at the end. -/
theorem seededChecksumsReturnCThenB : Obligations.SeededChecksumsReturnCThenB := by
  intro s p l s0 s1 hw hs
  have hrun := run_issue_seed_update_reads hs hw p l s0 s1
  rw [← seedRule_eq]
  exact ⟨_, rfl, ⟨_, hrun [2], rfl, rfl, rfl⟩, ⟨_, hrun [2, 1], rfl, rfl, rfl⟩⟩

end Sys2Proof.Machine
end

section
/-! PROOF. The exceptions family (60_exceptions.md): steps and runs that always complete, what sets an error bit, commands and STATUS. -/

namespace Sys2Proof.Machine

/-! ### The window stays as the platform has mapped it (20_memory.md R62) -/

theorem State.storeBytes_memWindow (s : State) (cells : List (Word × Byte)) :
    (s.storeBytes cells).memWindow = s.memWindow := by
  obtain ⟨m, r, n, h⟩ := s.storeBytes_frame cells
  rw [h]

theorem State.abandon_memWindow (s : State) (w : Word) : (s.abandon w).memWindow = s.memWindow := by
  unfold State.abandon
  split
  · obtain ⟨m, r, n, h⟩ := s.storeSome_frame s.digestCells
    rw [h]
  · rfl

theorem exec_memWindow {i : Instr} {s t : State} (h : exec i s = .next t) : t.memWindow = s.memWindow := by
  obtain ⟨-, rfl⟩ | ⟨-, rfl⟩ | ⟨-, rfl⟩ | ⟨-, rfl⟩ | ⟨n, -, -, rfl⟩ | ⟨n, -, -, -, rfl⟩ | ⟨n, -, -, rfl⟩ |
    ⟨-, -, rfl⟩ | ⟨-, -, rfl⟩ := exec_cases h
  on_goal 9 => exact s.storeBytes_memWindow _
  all_goals rfl

theorem execute_memWindow {w : Word} {s t : State} (h : execute w s = .next t) : t.memWindow = s.memWindow := by
  cases hw : decode w with
  | error r => cases (execute_illegal hw s).symm.trans h; rfl
  | ok i => exact exec_memWindow ((execute_legal hw s).symm.trans h)

theorem perform_memWindow {e : Event} {s t : State} (h : perform e s = .next t) : t.memWindow = s.memWindow := by
  cases e with
  | write i v =>
    by_cases hi : i = cmdIndex
    · subst hi
      rw [perform_write, portWrite_cmd] at h
      obtain ⟨u, hu, rfl⟩ := settled_cases h
      exact u.settle_memWindow.trans (execute_memWindow hu)
    · cases (portWrite_reg hi v s).symm.trans h
      obtain ⟨x0, x1, x2, st, hw⟩ := s.writeReg_frame i v
      rw [hw]
  | resetDuring w => cases h; exact s.abandon_memWindow w
  | read i => cases h; rfl
  | reset => cases h; rfl
  | store a b => cases h; rfl
  | race a b => cases h; rfl

/-- No step moves the window, hidden or not. -/
theorem step_memWindow {s t : State} (h : step s = .next t) : t.memWindow = s.memWindow := by
  obtain ⟨-, rfl⟩ | ⟨e, rest, -, he⟩ := step_cases h
  · rfl
  · exact perform_memWindow (s := s.take rest) he

/-! ### Where the window is hidden, everything completes (60_exceptions.md R202) -/

theorem step_idle {s : State} (hp : s.pending = []) : step s = .next s := by
  simp [step, hp]

theorem execTail_completes (n : Fin 16) (s : State) : ∃ t, execTail n s = .next t := by
  obtain h0 | ⟨h0, h12⟩ | h13 : n.val = 0 ∨ (n.val ≠ 0 ∧ n.val ≤ 12) ∨ 12 < n.val := by omega
  · exact ⟨_, execTail_zero h0 s⟩
  · exact ⟨_, execTail_some h0 h12 s⟩
  · exact ⟨_, execTail_long h13 s⟩

section
variable {s : State} (hw : s.windowHidden)
include hw

/-- Only UPDATE and DIGEST can stop, and only in the window. -/
theorem exec_completes (i : Instr) : ∃ t, exec i s = .next t := by
  cases i with
  | seed => exact ⟨_, exec_seed s⟩
  | reseed => exact ⟨_, exec_reseed s⟩
  | load => exact ⟨_, exec_load s⟩
  | block => exact ⟨_, exec_block s⟩
  | tail n => exact execTail_completes n s
  | update => exact ⟨_, exec_update_next.mpr ⟨State.reachesWindow_hidden hw _, rfl⟩⟩
  | digest => exact ⟨_, exec_digest (State.reachesWindow_hidden hw _)⟩

theorem execute_completes (w : Word) : ∃ t, execute w s = .next t := by
  cases hd : decode w with
  | error r => exact ⟨_, execute_illegal hd s⟩
  | ok i =>
    rw [execute_legal hd]
    exact exec_completes hw i

theorem perform_completes (e : Event) : ∃ t, perform e s = .next t := by
  cases e with
  | write i v =>
    by_cases hi : i = cmdIndex
    · obtain ⟨t, ht⟩ := execute_completes hw v
      exact ⟨t.settle, by rw [hi, perform_write, portWrite_cmd, ht, settled_next]⟩
    · exact ⟨_, portWrite_reg hi v s⟩
  | read i => exact ⟨_, perform_read i s⟩
  | reset => exact ⟨_, perform_reset s⟩
  | resetDuring w => exact ⟨_, perform_resetDuring w s⟩
  | store a b => exact ⟨_, perform_store a b s⟩
  | race a b => exact ⟨_, perform_race a b s⟩

theorem step_completes : ∃ t, step s = .next t := by
  cases hp : s.pending with
  | nil => exact ⟨s, step_idle hp⟩
  | cons e rest =>
    rw [step_pending hp]
    exact perform_completes (s := s.take rest) hw e

end

/-- Settles O7: the idle step. -/
theorem idleStepHoldsState : Obligations.IdleStepHoldsState := fun _ hp => step_idle hp

/-- Settles O52: the step completes, and moves no window. -/
theorem everyStepCompletesWhenWindowHidden : Obligations.EveryStepCompletesWhenWindowHidden := by
  intro s hw
  obtain ⟨t, ht⟩ := step_completes hw
  exact ⟨t, ht, (step_memWindow ht).trans hw⟩

/-- Settles O53, by induction on the length of the run: each step completes and keeps both premises. -/
theorem runNeverStopsWhenWindowHidden : Obligations.RunNeverStopsWhenWindowHidden := by
  intro k
  induction k with
  | zero => exact fun s hw hs => ⟨s, run_zero s, hw, hs⟩
  | succ k ih =>
    intro s hw hs
    obtain ⟨t, ht, hwt⟩ := everyStepCompletesWhenWindowHidden s hw
    rw [run_succ ht]
    exact ih t hwt (stepKeepsMemoryCanonical s t hs ht)

/-! ### What sets an error bit (60_exceptions.md R203) -/

/-- Event e meets the condition of cause c. -/
inductive Event.Raises : Event → Cause → Prop
  | illegalCommand {w : Word} (hw : ∀ i, decode w ≠ .ok i) : Raises (.write cmdIndex w) .illegalCommand
  | badAccess {i : PortIndex} {v : Word} (hi : i.toNat ≤ 4 ∨ 10 ≤ i.toNat) : Raises (.write i v) .badAccess

/-- Recording a cause sets no bit but the cause's own. -/
theorem statusSet_sets_statusBit {c : Cause} {st : BitVec 2} {j : Nat} (hs : st.getLsbD j = false)
    (ht : (statusSet c st).getLsbD j = true) : c.statusBit.getLsbD j = true := by
  simpa [statusSet, hs] using ht

/-- A port write that sets a bit of STATUS is to an index that is not writable, and the bit is BadAccess's. -/
theorem State.writeReg_sets_statusBit {s : State} {i : PortIndex} {v : Word} {j : Nat} (hi : i ≠ cmdIndex)
    (hs : s.STATUS.getLsbD j = false) (ht : (s.writeReg i v).STATUS.getLsbD j = true) :
    (i.toNat ≤ 4 ∨ 10 ≤ i.toNat) ∧ Cause.badAccess.statusBit.getLsbD j = true := by
  obtain (rfl | rfl | rfl) | rfl | hro := portIndex_cases hi
  case inr.inl =>
    have hbit : (statusClear v s.STATUS).getLsbD j = true := ht
    simp [statusClear, hs] at hbit
  case inr.inr =>
    rw [s.writeReg_unwritable hro v] at ht
    exact ⟨hro, statusSet_sets_statusBit hs ht⟩
  all_goals cases hs.symm.trans ht

/-- A step sets a STATUS bit only on an event that raises the bit's cause. -/
theorem step_statusBit_set {s t : State} {j : Nat} (h : step s = .next t) (hs : s.STATUS.getLsbD j = false)
    (ht : t.STATUS.getLsbD j = true) :
    ∃ e rest c, s.pending = e :: rest ∧ e.Raises c ∧ c.statusBit.getLsbD j = true := by
  have bitOf {r : State} (hr : t.registers = r.registers) : r.STATUS.getLsbD j = true := by
    have hST : t.registers.STATUS = r.registers.STATUS := congrArg State.STATUS hr
    exact (congrArg (·.getLsbD j) hST).symm.trans ht
  have keeps {r : State} (hr : t.registers = r.registers) (hclear : r.STATUS.getLsbD j = false) : False := by
    cases hclear.symm.trans (bitOf hr)
  obtain hk | ⟨e, rest, hp, he⟩ := step_registerEffect h
  · exact (keeps hk hs).elim
  · cases he with
    | kept hr => exact (keeps hr hs).elim
    | reset _ hr => exact (keeps hr BitVec.getLsbD_zero).elim
    | written hi hr =>
      obtain ⟨hro, hbit⟩ := State.writeReg_sets_statusBit (s := s.take rest) hi hs (bitOf hr)
      exact ⟨_, rest, _, hp, .badAccess hro, hbit⟩
    | seeded hr => exact (keeps hr hs).elim
    | installed _ _ hr => exact (keeps hr hs).elim
    | illegal hw hr => exact ⟨_, rest, _, hp, .illegalCommand hw, statusSet_sets_statusBit hs (bitOf hr)⟩

/-- Settles O50: bit 0 is IllegalCommand's alone, bit 1 BadAccess's. -/
theorem errorBitsAreSetOnlyByTheirCause : Obligations.ErrorBitsAreSetOnlyByTheirCause := by
  intro s t h
  constructor
  · intro hs ht
    obtain ⟨e, rest, c, hp, hc, hbit⟩ := step_statusBit_set h hs ht
    cases hc with
    | illegalCommand hw => exact ⟨_, rest, hp, hw⟩
    | badAccess _ => cases hbit
  · intro hs ht
    obtain ⟨e, rest, c, hp, hc, hbit⟩ := step_statusBit_set h hs ht
    cases hc with
    | illegalCommand _ => cases hbit
    | badAccess hi => exact ⟨_, _, rest, hp, hi⟩

/-! ### Commands and STATUS (60_exceptions.md R206, 10_state.md R35) -/

/-- The state with another value in STATUS. -/
def State.withStatus (s : State) (st : BitVec 2) : State := { s with STATUS := st }

theorem State.storeBytes_withStatus (cells : List (Word × Byte)) (s : State) (st : BitVec 2) :
    (s.withStatus st).storeBytes cells = (s.storeBytes cells).withStatus st := by
  induction cells generalizing s with
  | nil => rfl
  | cons c cells ih => exact ih (s.storeByte c.1 c.2)

/-- A well-formed command does the same whatever STATUS holds. -/
theorem exec_withStatus {i : Instr} {s t : State} (hi : i.wf = true) (h : exec i s = .next t) (st : BitVec 2) :
    exec i (s.withStatus st) = .next (t.withStatus st) := by
  obtain ⟨rfl, rfl⟩ | ⟨rfl, rfl⟩ | ⟨rfl, rfl⟩ | ⟨rfl, rfl⟩ | ⟨n, rfl, h0, rfl⟩ | ⟨n, rfl, h0, h12, rfl⟩ |
    ⟨n, rfl, h13, -⟩ | ⟨rfl, hw, rfl⟩ | ⟨rfl, hw, rfl⟩ := exec_cases h
  · exact exec_seed _
  · exact exec_reseed _
  · exact exec_load _
  · exact exec_block _
  · exact execTail_zero h0 _
  · exact execTail_some h0 h12 _
  · exact absurd ((Instr.wf_tail n).mp hi) (by omega)
  · exact exec_update_next.mpr ⟨hw, rfl⟩
  · rw [← State.storeBytes_withStatus]
    exact exec_digest hw

/-- Settles O54: that STATUS is left is the case where it is given the value it holds. -/
theorem earlierErrorStopsNoCommand : Obligations.EarlierErrorStopsNoCommand := by
  intro i s t st hi h
  refine ⟨?_, exec_withStatus hi h st⟩
  have hsame : t = t.withStatus s.STATUS :=
    Host.Outcome.next.inj (h.symm.trans (exec_withStatus hi h s.STATUS))
  have hST : t.STATUS = (t.withStatus s.STATUS).STATUS := congrArg State.STATUS hsame
  exact hST

end Sys2Proof.Machine
end

section
/-! PROOF. The family of reset and hazards (70_reset_and_hazards.md): reset, a command it abandons, the block's own window. -/

namespace Sys2Proof.Machine

/-! ### Reset (R220) -/

/-- The reset values of the registers, written out (10_state.md R34). -/
theorem State.applyReset_eq (s : State) :
    s.applyReset = { s with
      S0 := 0, S1 := 0, A := 0xdeadbeef, B := 0xdeadbeef, C := 0xdeadbeef
      OP0 := 0, OP1 := 0, OP2 := 0, STATUS := 0 } := rfl

/-- Settles O14: the event is applyReset. -/
theorem resetEventSetsRegisters : Obligations.ResetEventSetsRegisters := by
  intro s rest hp
  rw [step_pending hp, perform_reset, State.applyReset_eq]
  rfl

/-! ### What the overlapping stores leave (20_memory.md R65; log 6) -/

/-- Another agent's store to a' is still in progress after a store to a different address. -/
theorem State.quiet_of_storeByte {s : State} {a a' : Word} {b : Byte} (h : (s.storeByte a b).quiet a') (hne : a' ≠ a) :
    s.quiet a' := by
  rintro r hr rfl
  exact h r (by simp [hr, hne]) rfl

/-- A byte is as it was where no other agent is writing, and elsewhere one that another agent is writing. -/
theorem State.settle_byteAt {s : State} (hs : s.mem.wf = true) (a : Word) :
    (s.quiet a ∧ s.settle.byteAt a = s.byteAt a) ∨ (a, s.settle.byteAt a) ∈ s.rivals := by
  have hread : s.settle.byteAt a = (s.rivalBytes a).getLast?.getD (s.byteAt a) :=
    Memory.read_foldl_write s.rivals hs a
  rw [hread]
  cases hl : (s.rivalBytes a).getLast? with
  | none =>
    refine .inl ⟨fun r hr hra => ?_, rfl⟩
    have hmem : r.2 ∈ s.rivalBytes a := State.mem_rivalBytes.mpr (hra ▸ hr)
    simp [List.getLast?_eq_none_iff.mp hl] at hmem
  | some b => exact .inr (State.mem_rivalBytes.mp (List.mem_of_getLast? hl))

/-! ### A command abandoned by reset (R221; log 9) -/

/-- A byte that address a may hold after any of the cells were stored from s and the overlapping stores are complete. -/
inductive State.MayLeave (s : State) (cells : List (Word × Byte)) (a : Word) : Byte → Prop
  /-- Nothing was stored there: no other agent was writing it, and its cell, if it has one, was not written. -/
  | kept (hq : s.quiet a) : MayLeave s cells a (s.byteAt a)
  /-- Its cell was written. -/
  | stored {b : Byte} (hc : (a, b) ∈ cells) : MayLeave s cells a b
  /-- Another agent was writing it. -/
  | rival {b : Byte} (hr : (a, b) ∈ s.rivals) : MayLeave s cells a b

/-- What may be left after one store is done may be left with that store among the cells. -/
theorem State.MayLeave.of_storeByte {s : State} (hs : s.mem.wf = true) {a x : Word} {y b : Byte}
    {cells : List (Word × Byte)} (h : (s.storeByte x y).MayLeave cells a b) : s.MayLeave ((x, y) :: cells) a b := by
  cases h with
  | kept hq =>
    by_cases hax : a = x
    · subst hax
      obtain hb | hr := State.storeByte_self hs a y
      · exact .stored (by simp [hb])
      · exact .rival hr
    · rw [s.storeByte_other y hax]
      exact .kept (State.quiet_of_storeByte hq hax)
  | stored hc => exact .stored (List.mem_cons_of_mem _ hc)
  | rival hr => exact .rival (s.storeByte_rivals_subset x y hr)

/-- The draws used do not matter. -/
theorem State.MayLeave.of_advance {s : State} {a : Word} {b : Byte} {n : Nat} {cells : List (Word × Byte)}
    (h : (s.advance n).MayLeave cells a b) : s.MayLeave cells a b := by
  cases h with
  | kept hq => exact .kept hq
  | stored hc => exact .stored hc
  | rival hr => exact .rival hr

/-- The first cell may be skipped. -/
theorem State.MayLeave.cons {s : State} {a : Word} {b : Byte} {cells : List (Word × Byte)}
    (h : s.MayLeave cells a b) (c : Word × Byte) : s.MayLeave (c :: cells) a b := by
  cases h with
  | kept hq => exact .kept hq
  | stored hc => exact .stored (List.mem_cons_of_mem _ hc)
  | rival hr => exact .rival hr

/-- Each address holds one of these bytes, whichever of the cells were written. -/
theorem State.storeSome_settle_mayLeave (cells : List (Word × Byte)) {s : State} (hs : s.mem.wf = true) (a : Word) :
    s.MayLeave cells a ((s.storeSome cells).settle.byteAt a) := by
  induction cells generalizing s with
  | nil =>
    obtain ⟨hq, hb⟩ | hr := State.settle_byteAt hs a
    · exact hb ▸ .kept hq
    · exact .rival hr
  | cons c cells ih =>
    simp only [State.storeSome]
    split
    · have hstore := ih (State.storeByte_wf (s := s.advance 1) hs c.1 c.2)
      exact (State.MayLeave.of_storeByte (s := s.advance 1) hs hstore).of_advance
    · exact (ih (s := s.advance 1) hs).of_advance.cons c

/-- The cells an abandoned command may write: DIGEST's four, or none. -/
def State.abandonedCells (s : State) (w : Word) : List (Word × Byte) :=
  if decode w = .ok .digest then s.digestCells else []

theorem State.abandon_eq (s : State) (w : Word) : s.abandon w = s.storeSome (s.abandonedCells w) := by
  unfold State.abandon State.abandonedCells
  split <;> rfl

/-- An abandoned command writes cells only if its word is DIGEST's, and then DIGEST's bytes. -/
theorem State.mem_abandonedCells {s : State} {w a : Word} {b : Byte} (h : (a, b) ∈ s.abandonedCells w) :
    w = 7 ∧ ∃ k < 4, a = s.OP0 + BitVec.ofNat 32 k ∧ b = s.C.extractLsb' (24 - 8 * k) 8 := by
  unfold State.abandonedCells at h
  split at h
  · next hw =>
    obtain ⟨-, henc⟩ := wf_and_encode_of_decode hw
    have hcells : ∀ c ∈ s.digestCells, ∃ k < 4, c.1 = s.OP0 + BitVec.ofNat 32 k ∧ c.2 = s.C.extractLsb' (24 - 8 * k) 8 :=
      State.forall_digestCells.mpr fun k hk => ⟨k, hk, rfl, rfl⟩
    exact ⟨henc.symm, hcells _ h⟩
  · cases h

/-- Each byte after an abandoned command, with the overlapping stores complete. -/
theorem State.abandon_settle_mayLeave {s : State} (hs : s.mem.wf = true) (w a : Word) :
    s.MayLeave (s.abandonedCells w) a ((s.abandon w).settle.byteAt a) :=
  s.abandon_eq w ▸ State.storeSome_settle_mayLeave _ hs a

/-- An abandoned command, with the overlapping stores complete, touches memory, the rivals and the draws only. -/
theorem State.abandon_settle_frame (s : State) (w : Word) :
    ∃ n, (s.abandon w).settle = { s with mem := (s.abandon w).settle.mem, rivals := [], draws := n } := by
  obtain ⟨m, r, n, h⟩ := s.storeSome_frame (s.abandonedCells w)
  exact ⟨n, by rw [s.abandon_eq, h]; rfl⟩

/-- Settles O16: each byte is one that the abandoned command's cells may leave. -/
theorem abandonedCommandLeavesResetRegisters : Obligations.AbandonedCommandLeavesResetRegisters := by
  intro s w rest hs hp
  obtain ⟨n, hframe⟩ := (s.take rest).abandon_settle_frame w
  refine ⟨((s.take rest).abandon w).settle.mem, n, ?_, fun a => ?_⟩
  · rw [step_pending hp, perform_resetDuring, hframe, State.applyReset_eq]
    rfl
  · have hbyte := State.abandon_settle_mayLeave (s := s.take rest) hs w a
    unfold State.byteAt at hbyte
    generalize ((s.take rest).abandon w).settle.mem.read a.toNat = b at hbyte ⊢
    cases hbyte with
    | kept hq => exact .inl ⟨hq, rfl⟩
    | stored hc => exact .inr (.inl (State.mem_abandonedCells hc))
    | rival hr => exact .inr (.inr ⟨_, hr, rfl, rfl⟩)

/-! ### The block's own window (R229; log 8) -/

theorem State.reachesWindow_of_inWindow {s : State} {p : Word} {n i : Nat} (hi : i < n)
    (h : s.inWindow (p + BitVec.ofNat 32 i) = true) : s.reachesWindow (byteAddrs p n) = true :=
  List.any_eq_true.mpr ⟨_, List.mem_map.mpr ⟨i, List.mem_range.mpr hi, rfl⟩, h⟩

theorem exec_update_stuck {s : State} (h : s.reachesWindow (byteAddrs s.OP0 s.OP1.toNat) = true) :
    exec .update s = .fault .selfAccess := by
  simp [exec, execUpdate, State.updateAddrs, h]

theorem exec_digest_stuck {s : State} (h : s.reachesWindow (byteAddrs s.OP0 4) = true) :
    exec .digest s = .fault .selfAccess := by
  simp [exec, execDigest, State.digestCells_map_fst, h]

/-- Settles O41: an address in the window is one that the command's check of its addresses finds. -/
theorem memoryCommandsStickInOwnWindow : Obligations.MemoryCommandsStickInOwnWindow :=
  ⟨fun _ _ hi h => exec_update_stuck (State.reachesWindow_of_inWindow hi h),
    fun _ _ hk h => exec_digest_stuck (State.reachesWindow_of_inWindow hk h)⟩

end Sys2Proof.Machine
end
